-- ==== Sys2Proof/Word.lean ====
section
/-! DEFINITION. The words the block handles: bytes and finite byte sequences (00_scope.md R6, R7). -/

namespace Sys2Proof

/-- `Byte`, a `u8` (R7). -/
abbrev Byte := BitVec 8

/-- `ByteSeq`, a finite sequence of bytes, index 0 first (R7). -/
abbrev ByteSeq := List Byte

end Sys2Proof
end

