-- ==== Sys2Proof/Config.lean ====
section
/-! DEFINITION. The parameters of the block (00_scope.md R5) and the free values of the model. -/

namespace Sys2Proof

/-- `HDR_LEN`, the length in bytes of an encoded header (R5, fixed by the source). -/
abbrev hdrLen : Nat := 21

/-- The OPEN parameter of one block instance (R5), and the model's own number of the instance.
`pcap` is `PCAP`, the capacity in bytes of `PAY`, any value of `0 .. 2^32 - 1`, by default `2^32 - 1`.
It is an argument of the model: State carries it and no step changes it (log 5).
`unit` is no state of the block and no rule of the spec reads it: it only keeps the free values of one instance
apart from those of another (log 23). -/
structure Config where
  pcap : BitVec 32 := 0xFFFFFFFF#32
  unit : Nat := 0
  deriving DecidableEq, Repr

/-- The OPEN parameters of a group of instances (R5): the capacity of each, in order. `N_INST` is how many there
are, at least 1, by default 1, with the default `PCAP`. -/
structure GroupConfig where
  capacities : List (BitVec 32) := [0xFFFFFFFF#32]
  atLeastOne : capacities ≠ [] := by decide
  deriving DecidableEq, Repr

/-- `N_INST` (R5). -/
def GroupConfig.nInst (g : GroupConfig) : Nat := g.capacities.length

/-- Free value: what an unspecified register read returns (R105, R136; U4), by the number of the instance, the
register number and how many free values the instance has drawn before. No body: nothing is known of it, and
nothing relates the values of different arguments (logs 8, 23). -/
opaque Config.freeWord (unit register draw : Nat) : BitVec 64

/-- Free value: what an unspecified payload read returns (R36, R105; U4, U5), by the number of the instance, the
index read and how many free values the instance has drawn before. No body: nothing is known of it, and nothing
relates the values of different arguments (logs 8, 23). -/
opaque Config.freeByte (unit index draw : Nat) : Byte

end Sys2Proof
end

