-- ==== Sys2Proof/Syntax.lean ====
section
/-! DEFINITION. The seven commands, one constructor per row of spec/opcode_table.json (30_encoding.md R56). -/

namespace Sys2Proof

/-- A command. It carries no operand: operands are the header registers, the packet slot and the input
sequence (R55, R58). -/
inductive Instr where
  /-- `HDR.ENC`, `Header::encode` (R65). -/
  | hdrEnc
  /-- `HDR.DEC`, `Header::decode` (R66). -/
  | hdrDec
  /-- `PKT.NEW`, `Packet::new` (R70). -/
  | pktNew
  /-- `PKT.ENC`, `Packet::encode` (R72). -/
  | pktEnc
  /-- `PKT.DEC`, `Packet::decode` (R73). -/
  | pktDec
  /-- `CSUM`, `checksum` (R81). -/
  | csum
  /-- `PKT.VFY`, `verify_checksum` (R75). -/
  | pktVfy
  deriving DecidableEq, Repr

end Sys2Proof
end

