-- ==== Sys2Proof/HostAction.lean ====
section
/-! DEFINITION. What the host can do at the block's ports: the lines of a host program (30_encoding.md
R59), the port events (43_byte_serial_execution.md R90) and what the block answers. -/

namespace Sys2Proof

/-- One action of the host.
`command` is a command line of R59, run as one atomic transition (the command level of D1); `start`, `byte`
and `endInput` are the events it stands for (the byte-serial level). The others are the same at both levels. -/
inductive Action where
  /-- A command line: the command word and the whole input sequence, empty for a command that takes none
  and for a raw reserved word. -/
  | command (cw : Byte) (input : ByteSeq)
  /-- `START(cw)`. -/
  | start (cw : Byte)
  /-- `BYTE(b)`. -/
  | byte (b : Byte)
  /-- `END`. -/
  | endInput
  /-- `RD(r)`, any register number. -/
  | rd (r : Nat)
  /-- `WR(r, v)`, any register number, `v` 64 bits wide. -/
  | wr (r : Nat) (v : BitVec 64)
  /-- `RDP(i)`, any index. -/
  | rdp (i : Nat)
  /-- `RESET`. -/
  | reset
  deriving DecidableEq, Repr

/-- What the block sends to the host (R90): output bytes, the end of an output sequence, completion, and
the values that `RD` and `RDP` return. -/
inductive PortEvent where
  /-- `OUT(b)`. -/
  | out (b : Byte)
  /-- `OUT_END`. -/
  | outEnd
  /-- `DONE`. -/
  | done
  /-- The value an `RD` returned, zero-extended to 64 bits. -/
  | rdValue (v : BitVec 64)
  /-- The byte an `RDP` returned. -/
  | rdpValue (b : Byte)
  deriving DecidableEq, Repr

end Sys2Proof
end

