-- ==== Sys2Proof/Machine/State.lean ====
section
/-! DEFINITION. The state of one block instance (10_state.md), the reasons a step can stop, and the state
after reset. -/

namespace Sys2Proof.Machine

/-- `Header`, the fixed record of five unsigned fields (00_scope.md R9); every combination of values is a
`Header`. -/
structure Header where
  messageType : BitVec 8
  sequence : BitVec 32
  senderId : BitVec 64
  payloadSize : BitVec 32
  checksum : BitVec 32
  deriving DecidableEq, Repr

/-- The result codes of `STATUS.ERR` (60_exceptions.md R110). -/
inductive ResultCode where
  | ok
  | insufficientBytes
  | payloadSizeMismatch
  | illegalCommand
  deriving DecidableEq, Repr

/-- The phase register `PH` (R21). -/
inductive Phase where
  | idle
  | run
  deriving DecidableEq, Repr

/-- A byte buffer: its bytes that have a value, at strictly rising indices. An unlisted index has no value,
so that reading it is never a made-up byte (R14, R20, R21; log 7). -/
abbrev Memory := List Host.Cell

/-- The state of one block instance, and the model's own fields for the block's surroundings (R25). -/
structure State where
  /-- The header register file `H`: `H.MT`, `H.SEQ`, `H.SID`, `H.PSZ`, `H.CSUM` (R10, R11). -/
  h : Header
  /-- `ACC`, the checksum accumulator (R12). -/
  acc : BitVec 32
  /-- `CNT`, the byte counter, saturating at 2^32 (R13). -/
  cnt : BitVec 33
  /-- `STATUS.ERR` (R15, R16). -/
  err : ResultCode
  /-- `STATUS.PV`, the packet slot holds a packet (R14). -/
  pv : Bool
  /-- `STATUS.VOK`, the packet now in the slot passed PKT.VFY (R18). -/
  vok : Bool
  /-- `PAY`, the payload buffer: its bytes that have an architectural value, and those stored so far by a
  running PKT.NEW or PKT.DEC (R20; log 7). -/
  pay : Memory
  /-- `PH` (R21). `STATUS.BUSY` is 1 exactly while it is not `IDLE` (R19). -/
  ph : Phase
  /-- `OP`, the opcode of the running command (R21). -/
  op : BitVec 3
  /-- `IDX`, 0 to 21, input bytes taken into the staging buffer so far (R17, R21). -/
  idx : Nat
  /-- `HBUF`, the header staging buffer (R21). -/
  hbuf : Memory
  /-- Model's own: the parameter of this instance (R5; log 5) and its number (log 23). -/
  cfg : Config
  /-- Model's own: the input sequence of the command that runs at the command level (R25; log 2). -/
  input : ByteSeq
  /-- Model's own: the host actions not yet done, next one first (R124, R142; log 1). -/
  actions : List Action
  /-- Model's own: what the block has sent to the host, oldest first (R90, R142; log 3). -/
  emitted : List PortEvent
  /-- Model's own: how many free values have been drawn (logs 8, 23). -/
  draws : Nat
  deriving DecidableEq, Repr

/-- Reasons the machine stops with a fault. No run from reset reaches one (log 21). -/
inductive Fault where
  /-- PKT.ENC, PKT.VFY or RDP reads a byte of `PAY` that has no value. Safe: the packet of a valid slot has
  all its bytes (R14). -/
  | payByteWithoutValue
  /-- The 21st header byte arrives and a byte of `HBUF` has no value. Safe: a running decode has written all
  of them (R91). -/
  | hbufByteWithoutValue
  /-- `BYTE` or `END` while `PH = RUN` and `OP` names no command with an input sequence. Safe: only R91 sets
  `PH = RUN`, and only for those four. -/
  | runWithoutInputCommand
  deriving DecidableEq, Repr

/-- Reasons the model gives a step no meaning. -/
inductive Refusal where
  /-- An arm of exec that has no meaning yet. Safe. -/
  | notModelled (mnemonic : String)
  /-- `START`, or a command line, while `BUSY = 1` (R104, U3). Unsafe for a host that does it (D19; log 10). -/
  | startWhileBusy
  /-- `WR` while `BUSY = 1` (R104, U3). Unsafe for a host that does it (D19; log 10). -/
  | writeWhileBusy
  /-- `BYTE` while `PH = IDLE` (R104, U3), also a command line that gives input to a command that takes none
  (log 11). Unsafe for a host that does it (D19; log 10). -/
  | byteWhileIdle
  /-- `END` while `PH = IDLE` (R104, U3), a second `END` too. Unsafe for a host that does it (D19; log 10). -/
  | endWhileIdle
  /-- PKT.NEW with a payload longer than `PCAP`, 2^32 bytes or more included (R42, R71; U1, U2). Safe (D9, D10;
  log 12). -/
  | newOutsideEnvelope
  /-- PKT.DEC that would succeed with a payload longer than `PCAP` (R42; U2). Safe (D9; log 12). -/
  | decOutsideEnvelope
  /-- A step of an instance that a `Cluster` does not have (log 16). Safe. -/
  | noSuchInstance
  deriving DecidableEq, Repr

/-- The state after reset (R24, R130): every register 0, no packet, `IDLE`, no byte of `PAY` or `HBUF` with a
value. `OP` and `IDX` are unspecified by R24 and 0 here (log 6); `PCAP` has its default (R5; log 5); the
model's own fields are empty or 0 (logs 1, 2, 3, 8, 23). -/
def State.reset : State where
  h := { messageType := 0#8, sequence := 0#32, senderId := 0#64, payloadSize := 0#32, checksum := 0#32 }
  acc := 0#32
  cnt := 0#33
  err := .ok
  pv := false
  vok := false
  pay := []
  ph := .idle
  op := 0#3
  idx := 0
  hbuf := []
  cfg := {}
  input := []
  actions := []
  emitted := []
  draws := 0

end Sys2Proof.Machine
end

