-- ==== Sys2Proof/Machine/Wire.lean ====
section
/-! DEFINITION. The wire format (30_encoding.md Part A): little-endian fields, the 21-byte header, the
packet. -/

namespace Sys2Proof.Machine

/-- `s[a..b]`, the bytes of indices `a` to `b` inclusive (00_scope.md R7). -/
def slice (s : ByteSeq) (a b : Nat) : ByteSeq := (s.drop a).take (b + 1 - a)

/-- `le_N(v)` for `N = 8 * n`: byte `k` is `v[8k+7 : 8k]` (R8). -/
def toLe (n : Nat) (v : BitVec w) : ByteSeq := (List.range n).map fun k => v.extractLsb' (8 * k) 8

/-- The sum over `k` of `b[k] * 2^(8k)`, exact (R8). -/
def leSum : ByteSeq → Nat
  | [] => 0
  | b :: bs => b.toNat + 2 ^ 8 * leSum bs

/-- `from_le_N(b)` (R8). -/
def fromLe (w : Nat) (b : ByteSeq) : BitVec w := BitVec.ofNat w (leSum b)

/-- `hdr_pack`, total, 21 bytes (R47). -/
def hdrPack (h : Header) : ByteSeq :=
  [h.messageType] ++ toLe 4 h.sequence ++ toLe 8 h.senderId ++ toLe 4 h.payloadSize ++ toLe 4 h.checksum

/-- `hdr_unpack` of a 21-byte sequence, positional (R48); it checks no field and no length. -/
def hdrUnpack (b : ByteSeq) : Header where
  messageType := fromLe 8 (slice b 0 0)
  sequence := fromLe 32 (slice b 1 4)
  senderId := fromLe 64 (slice b 5 12)
  payloadSize := fromLe 32 (slice b 13 16)
  checksum := fromLe 32 (slice b 17 20)

/-- `pkt_pack` of a header and its payload (R49). -/
def pktPack (h : Header) (payload : ByteSeq) : ByteSeq := hdrPack h ++ payload

end Sys2Proof.Machine
end

