-- ==== Sys2Proof/Machine/Ops.lean ====
section
/-! DEFINITION. The named operations over buffers, the accumulator, the output stream and the completion
of a command, errors included. -/

namespace Sys2Proof.Machine

/-! ## Byte buffers (20_memory.md R33, R37) -/

/-- The canonical form: strictly rising indices. (No entry can equal what an unlisted index reads as, which
is no value.) -/
abbrev Memory.wf (m : Memory) : Prop := (m.map Prod.fst).Pairwise (· < ·)

/-- The byte at an index, if it has a value. -/
def Memory.read : Memory → Nat → Option Byte
  | [], _ => none
  | (k, b) :: m, i => if k = i then some b else Memory.read m i

/-- One byte written at an index. -/
def Memory.write : Memory → Nat → Byte → Memory
  | [], i, b => [(i, b)]
  | (k, c) :: m, i, b =>
    if i < k then (i, b) :: (k, c) :: m
    else if i = k then (i, b) :: m
    else (k, c) :: Memory.write m i b

/-- The `n` bytes from index `i` on, in order, if all have a value. -/
def Memory.readRange (m : Memory) : Nat → Nat → Option ByteSeq
  | _, 0 => some []
  | i, n + 1 =>
    match m.read i, Memory.readRange m (i + 1) n with
    | some b, some bs => some (b :: bs)
    | _, _ => none

/-- `MemWrite(PAY, i, 1, b)`: a write at an index `i >= PCAP` does not happen (R37). -/
def State.payWrite (s : State) (i : Nat) (b : Byte) : State :=
  { s with pay := if i < s.cfg.pcap.toNat then s.pay.write i b else s.pay }

/-- `MemWrite(PAY, i + k, 1, bs[k])` for every byte of `bs`, in rising order (R37). -/
def State.payStore (s : State) (i : Nat) : ByteSeq → State
  | [] => s
  | b :: bs => (s.payWrite i b).payStore (i + 1) bs

/-- The payload of the packet in the slot, `PAY[0 .. H.PSZ - 1]` (R14). -/
def State.payload (s : State) : Option ByteSeq := s.pay.readRange 0 s.h.payloadSize.toNat

/-! ## The checksum accumulator (42_checksum.md) -/

/-- `checksum`: the sum of the bytes, each widened, modulo 2^32 (R80). -/
def checksum (bs : ByteSeq) : BitVec 32 := BitVec.ofNat 32 (bs.map BitVec.toNat).sum

/-- `sat_inc` on the 33-bit counter (R13). -/
def satInc (c : BitVec 33) : BitVec 33 := if c.toNat < 2 ^ 32 then c + 1#33 else BitVec.ofNat 33 (2 ^ 32)

/-- `min(n, 2^32)` as a value of `CNT` (R13). -/
def satCount (n : Nat) : BitVec 33 := BitVec.ofNat 33 (min n (2 ^ 32))

/-- `clear` (R82). -/
def State.clearSums (s : State) : State := { s with acc := 0#32, cnt := 0#33 }

/-- `absorb(b)` (R82): the carry out of bit 31 is discarded. -/
def State.absorb (s : State) (b : Byte) : State :=
  { s with acc := s.acc + b.setWidth 32, cnt := satInc s.cnt }

/-! ## Commands: start, output, completion -/

/-- A command starts only while `PH = IDLE` (43_byte_serial_execution.md R91, R104). -/
def whenIdle (s : State) (r : Host.Outcome State Fault Refusal) : Host.Outcome State Fault Refusal :=
  match s.ph with
  | .idle => r
  | .run => .refused .startWhileBusy

/-- The command has taken its whole input sequence. -/
def State.takeInput (s : State) : State := { s with input := [] }

/-- One event at a port goes to the host (43_byte_serial_execution.md R90). -/
def State.emitEvent (s : State) (e : PortEvent) : State := { s with emitted := s.emitted ++ [e] }

/-- `emit(out)` with the output sequence's end: one `OUT` a byte, in order, then `OUT_END` (R101). -/
def State.emitOutput (s : State) (out : ByteSeq) : State :=
  { s with emitted := s.emitted ++ out.map .out ++ [.outEnd] }

/-- Completion with a result code: `ERR` is written, `PH <- IDLE`, `DONE` (R16, R102). -/
def State.complete (s : State) (c : ResultCode) : State :=
  { s with err := c, ph := .idle, emitted := s.emitted ++ [.done] }

/-- `raise E` (60_exceptions.md R113), the block's one error entry: the code of `E` to `ERR`, no output, the
command completes. Nothing is saved and control goes nowhere, so there is no return from it (R116). The other
state changes of a raising rule are made by that rule. -/
def State.raiseError (s : State) (e : ResultCode) : State := s.complete e

end Sys2Proof.Machine
end

