-- ==== Sys2Proof/Machine/Flags.lean ====
section
/-! DEFINITION. `STATUS` and its fields (10_state.md R14 to R19). -/

namespace Sys2Proof.Machine

/-- The code number of a result (60_exceptions.md R110). -/
def ResultCode.bits : ResultCode → BitVec 2
  | .ok => 0#2
  | .insufficientBytes => 1#2
  | .payloadSizeMismatch => 2#2
  | .illegalCommand => 3#2

/-- `STATUS.BUSY`: 1 exactly while `PH` is not `IDLE` (R19). -/
def State.busy (s : State) : Bool :=
  match s.ph with
  | .idle => false
  | .run => true

/-- `STATUS` as register 7 reads: `ERR` 1:0, `PV` 2, `VOK` 3, `BUSY` 4, and 7:5 read as 0 (R15). -/
def State.status (s : State) : BitVec 8 :=
  0#3 ++ (BitVec.ofBool s.busy ++ (BitVec.ofBool s.vok ++ (BitVec.ofBool s.pv ++ s.err.bits)))

/-- `PV <- 0 ; VOK <- 0`: the slot holds no packet, and no byte of `PAY` has an architectural value (R14, R18),
so the model keeps none (U6; log 7). -/
def State.dropPacket (s : State) : State := { s with pv := false, vok := false, pay := [] }

/-- A decode that stored bytes and then failed leaves no packet, so none of those bytes has an architectural
value (R14; log 7). -/
def State.forgetBytes (s : State) : State := { s with pay := [] }

/-- `PV <- 1` at the successful end of PKT.NEW or PKT.DEC; `VOK` keeps the 0 of the start (R14, R18). -/
def State.holdPacket (s : State) : State := { s with pv := true }

end Sys2Proof.Machine
end

