-- ==== Sys2Proof/Machine/Operands.lean ====
section
/-! DEFINITION. The register port and the payload read port (10_state.md R10, R22; 20_memory.md R36), and
the header a decode takes from its input. -/

namespace Sys2Proof.Machine

/-- `RD(r)` while `BUSY = 0`: the register zero-extended to 64 bits, 0 for a number of 8 and above (R10, R22). -/
def State.readRegister (s : State) (r : Nat) : BitVec 64 :=
  match r with
  | 0 => s.h.messageType.setWidth 64
  | 1 => s.h.sequence.setWidth 64
  | 2 => s.h.senderId
  | 3 => s.h.payloadSize.setWidth 64
  | 4 => s.h.checksum.setWidth 64
  | 5 => s.acc.setWidth 64
  | 6 => s.cnt.setWidth 64
  | 7 => s.status.setWidth 64
  | _ => 0#64

/-- `WR(r, v)` while `BUSY = 0`: a header register takes the low bits of `v` and the slot loses its packet;
registers 5 to 7 are read only and the others do not exist (R22). -/
def State.writeRegister (s : State) (r : Nat) (v : BitVec 64) : State :=
  match r with
  | 0 => { s.dropPacket with h := { s.h with messageType := v.setWidth 8 } }
  | 1 => { s.dropPacket with h := { s.h with sequence := v.setWidth 32 } }
  | 2 => { s.dropPacket with h := { s.h with senderId := v } }
  | 3 => { s.dropPacket with h := { s.h with payloadSize := v.setWidth 32 } }
  | 4 => { s.dropPacket with h := { s.h with checksum := v.setWidth 32 } }
  | _ => s

/-- The value an `RD` returns is handed to the host. -/
def State.answerWord (s : State) (v : BitVec 64) : State := s.emitEvent (.rdValue v)

/-- The byte an `RDP` returns is handed to the host. -/
def State.answerByte (s : State) (b : Byte) : State := s.emitEvent (.rdpValue b)

/-- An unspecified value of register `r` is handed to the host: a free value, a fresh one each time (U4; log 8).
That it is a function of the instance's number, `r` and the draw count, so that equal arguments give equal values,
is the model's choice (log 23). -/
def State.answerFreeWord (s : State) (r : Nat) : State :=
  { s.answerWord (Config.freeWord s.cfg.unit r s.draws) with draws := s.draws + 1 }

/-- An unspecified byte for index `i` is handed to the host: a free value, a fresh one each time (U4, U5; log 8).
That it is a function of the instance's number, `i` and the draw count, so that equal arguments give equal values,
is the model's choice (log 23). -/
def State.answerFreeByte (s : State) (i : Nat) : State :=
  { s.answerByte (Config.freeByte s.cfg.unit i s.draws) with draws := s.draws + 1 }

/-- The five header registers written at once (R21). -/
def State.loadHeader (s : State) (h : Header) : State := { s with h := h }

end Sys2Proof.Machine
end

