-- ==== Sys2Proof/Machine/Checksum.lean ====
section
/-! DEFINITION. The checksum command at the command level (42_checksum.md). -/

namespace Sys2Proof.Machine

/-- `CSUM` (R81): `ACC` and `CNT` of any byte sequence; the packet slot is untouched. -/
def execCsum (s : State) : Host.Outcome State Fault Refusal :=
  whenIdle s <| .next <| State.complete (c := .ok)
    { s.takeInput with acc := checksum s.input, cnt := satCount s.input.length }

end Sys2Proof.Machine
end

