-- ==== Sys2Proof/Machine/HeaderCodec.lean ====
section
/-! DEFINITION. The Header Codec commands at the command level (40_header_codec.md). -/

namespace Sys2Proof.Machine

/-- `HDR.ENC` (R65): emits `hdr_pack(header(H))`; cannot fail. -/
def execHdrEnc (s : State) : Host.Outcome State Fault Refusal :=
  whenIdle s (.next ((s.emitOutput (hdrPack s.h)).complete .ok))

/-- `HDR.DEC` (R66): the first 21 bytes go to `H`, trailing bytes are ignored; fewer than 21 change only
`ERR`. -/
def execHdrDec (s : State) : Host.Outcome State Fault Refusal :=
  whenIdle s <|
    if s.input.length < hdrLen then .next (s.takeInput.raiseError .insufficientBytes)
    else .next (((s.takeInput.loadHeader (hdrUnpack (slice s.input 0 20))).dropPacket).complete .ok)

end Sys2Proof.Machine
end

