-- ==== Sys2Proof/Machine/PacketCodec.lean ====
section
/-! DEFINITION. The Packet Codec commands at the command level (41_packet_codec.md). -/

namespace Sys2Proof.Machine

/-- `PKT.NEW` (R70): derives `payload_size` and `checksum` from the payload and puts the packet into the
slot. A payload longer than `PCAP` is outside the envelope (R42, R71). -/
def execPktNew (s : State) : Host.Outcome State Fault Refusal :=
  whenIdle s <|
    if s.input.length ≤ s.cfg.pcap.toNat then
      .next <| State.complete (c := .ok) <| State.holdPacket
        { s.dropPacket.takeInput.payStore 0 s.input with
          h := { s.h with payloadSize := BitVec.ofNat 32 s.input.length, checksum := checksum s.input }
          acc := checksum s.input
          cnt := BitVec.ofNat 33 s.input.length }
    else .refused .newOutsideEnvelope

/-- `PKT.ENC` (R72): emits `pkt_pack` of the packet in the slot; without one, `IllegalCommand`. -/
def execPktEnc (s : State) : Host.Outcome State Fault Refusal :=
  whenIdle s <|
    if s.pv then
      match s.payload with
      | some p => .next ((s.emitOutput (pktPack s.h p)).complete .ok)
      | none => .fault .payByteWithoutValue
    else .next (s.raiseError .illegalCommand)

/-- `PKT.DEC` (R73), the source's steps in order: length of at least 21, header, candidate payload, exact
length, packet. The checksum is compared with nothing (R74). A success whose payload does not fit into
`PAY` is outside the envelope (R42). -/
def execPktDec (s : State) : Host.Outcome State Fault Refusal :=
  whenIdle s <|
    let s₀ := s.takeInput.dropPacket
    if s.input.length < hdrLen then .next (s₀.clearSums.raiseError .insufficientBytes)
    else
      let h := hdrUnpack (slice s.input 0 20)
      let cand := s.input.drop hdrLen
      let s₁ := { s₀.loadHeader h with acc := checksum cand, cnt := satCount cand.length }
      if cand.length ≠ h.payloadSize.toNat then .next (s₁.raiseError .payloadSizeMismatch)
      else if cand.length ≤ s.cfg.pcap.toNat then .next ((s₁.payStore 0 cand).holdPacket.complete .ok)
      else .refused .decOutsideEnvelope

/-- `PKT.VFY` (R75): recomputes the checksum over the payload and compares it with `H.CSUM`; a difference
is no error (R117). Without a packet, `IllegalCommand`. -/
def execPktVfy (s : State) : Host.Outcome State Fault Refusal :=
  whenIdle s <|
    if s.pv then
      match s.payload with
      | some p =>
        .next <| State.complete (c := .ok)
          { s with
            acc := checksum p
            cnt := s.h.payloadSize.setWidth 33
            vok := decide (checksum p = s.h.checksum) }
      | none => .fault .payByteWithoutValue
    else .next (s.raiseError .illegalCommand)

end Sys2Proof.Machine
end

