-- ==== Sys2Proof/Machine/Dispatch.lean ====
section
/-! DEFINITION. One command at the command level: one arm per command, its input sequence in the state. -/

namespace Sys2Proof.Machine

def exec (i : Instr) (s : State) : Host.Outcome State Fault Refusal :=
  match i with
  | .hdrEnc => Sys2Proof.Machine.execHdrEnc s
  | .hdrDec => Sys2Proof.Machine.execHdrDec s
  | .pktNew => Sys2Proof.Machine.execPktNew s
  | .pktEnc => Sys2Proof.Machine.execPktEnc s
  | .pktDec => Sys2Proof.Machine.execPktDec s
  | .csum => Sys2Proof.Machine.execCsum s
  | .pktVfy => Sys2Proof.Machine.execPktVfy s

end Sys2Proof.Machine
end

