-- ==== Sys2Proof/Decode.lean ====
section
/-! DEFINITION. The command word `CW8` (30_encoding.md Part B): decoder, encoder, and the input column of
the opcode map. -/

namespace Sys2Proof

/-- Why bytes are no command (R57). -/
inductive DecodeError where
  /-- There is no byte to decode. -/
  | noWord
  /-- `cw[7:3]`, the field `ZERO`, is not 0: reserved. -/
  | zeroFieldSet
  /-- `cw[2:0]`, the field `OP`, is 0: reserved, and not a no-operation. -/
  | opcodeZero
  deriving DecidableEq, Repr

/-- The field `OP = cw[2:0]` (R55). -/
def opField (cw : Byte) : BitVec 3 := cw.extractLsb' 0 3

/-- The field `ZERO = cw[7:3]` (R55). -/
def zeroField (cw : Byte) : BitVec 5 := cw.extractLsb' 3 5

/-- The command a command word selects (R56); the 249 other words are reserved (R57). -/
def decode (cw : Byte) : Except DecodeError Instr :=
  if zeroField cw ≠ 0#5 then .error .zeroFieldSet
  else match (opField cw).toNat with
    | 1 => .ok .hdrEnc
    | 2 => .ok .hdrDec
    | 3 => .ok .pktNew
    | 4 => .ok .pktEnc
    | 5 => .ok .pktDec
    | 6 => .ok .csum
    | 7 => .ok .pktVfy
    | _ => .error .opcodeZero

/-- Decoding from a byte sequence: one command word is one byte (R55); the rest is returned. -/
def decodeBytes : ByteSeq → Except DecodeError (Instr × ByteSeq)
  | [] => .error .noWord
  | cw :: rest =>
    match decode cw with
    | .ok i => .ok (i, rest)
    | .error e => .error e

/-- The opcode of a command, column `OP` of the opcode map (R56). -/
def Instr.opcode : Instr → BitVec 3
  | .hdrEnc => 1#3
  | .hdrDec => 2#3
  | .pktNew => 3#3
  | .pktEnc => 4#3
  | .pktDec => 5#3
  | .csum => 6#3
  | .pktVfy => 7#3

/-- The command word of a command: `ZERO` above `OP` (R55, R56). -/
def encode (i : Instr) : Byte := 0#5 ++ i.opcode

/-- Column "input sequence" of the opcode map (R56): whether `START` of the command is followed by `BYTE`
events and `END` (R90). -/
def Instr.takesInput : Instr → Bool
  | .hdrEnc => false
  | .hdrDec => true
  | .pktNew => true
  | .pktEnc => false
  | .pktDec => true
  | .csum => true
  | .pktVfy => false

/-- The command the decoder reads from an instruction whose bits are `w`, numbered as
spec/opcode_table.json numbers them. Every row is one byte; a longer instruction does not exist. -/
def decodeTableWord (nbits w : Nat) : Option Instr :=
  if nbits ≤ 8 ∧ w < 256 then
    match decodeBytes [BitVec.ofNat 8 w] with
    | .ok (i, _) => some i
    | .error _ => none
  else none

end Sys2Proof
end

