-- ==== Sys2Proof/Machine/Serial.lean ====
section
/-! DEFINITION. The commands at the byte-serial level, one step per port event
(43_byte_serial_execution.md R91 to R101), with the hidden state `PH`, `OP`, `IDX`, `HBUF`. -/

namespace Sys2Proof.Machine

/-! ## `START` (R91, R100) -/

/-- `PH <- RUN`: the command begins to take its input sequence. -/
def State.enterRun (s : State) : State := { s with ph := .run }

/-- `OUT(b)` for each byte of a sequence, one event at a time (R100, R101). -/
def State.outBytes (s : State) : ByteSeq → State
  | [] => s
  | b :: bs => (s.emitEvent (.out b)).outBytes bs

/-- `for i: OUT(MemRead(PAY, i, 1))`, `n` bytes from index `i` on (R100). -/
def State.outPayload (s : State) (i : Nat) : Nat → Option State
  | 0 => some s
  | n + 1 =>
    match s.pay.read i with
    | some b => (s.emitEvent (.out b)).outPayload (i + 1) n
    | none => none

/-- `for i: absorb(MemRead(PAY, i, 1))`, `n` bytes from index `i` on (R100). -/
def State.absorbPayload (s : State) (i : Nat) : Nat → Option State
  | 0 => some s
  | n + 1 =>
    match s.pay.read i with
    | some b => (s.absorb b).absorbPayload (i + 1) n
    | none => none

/-- `START` of HDR.ENC runs to completion (R100). -/
def startHdrEnc (s : State) : Host.Outcome State Fault Refusal :=
  .next (((s.outBytes (hdrPack s.h)).emitEvent .outEnd).complete .ok)

/-- `START` of HDR.DEC (R91). -/
def startHdrDec (s : State) : Host.Outcome State Fault Refusal :=
  .next { s with idx := 0 }.enterRun

/-- `START` of PKT.NEW (R91). -/
def startPktNew (s : State) : Host.Outcome State Fault Refusal :=
  .next s.clearSums.dropPacket.enterRun

/-- `START` of PKT.ENC runs to completion (R100). -/
def startPktEnc (s : State) : Host.Outcome State Fault Refusal :=
  if s.pv then
    match (s.outBytes (hdrPack s.h)).outPayload 0 s.h.payloadSize.toNat with
    | some t => .next ((t.emitEvent .outEnd).complete .ok)
    | none => .fault .payByteWithoutValue
  else .next (s.raiseError .illegalCommand)

/-- `START` of PKT.DEC (R91): the old packet is dropped first. -/
def startPktDec (s : State) : Host.Outcome State Fault Refusal :=
  .next ({ s with idx := 0 }.clearSums.dropPacket.enterRun)

/-- `START` of CSUM (R91). -/
def startCsum (s : State) : Host.Outcome State Fault Refusal :=
  .next s.clearSums.enterRun

/-- `START` of PKT.VFY runs to completion (R100). -/
def startPktVfy (s : State) : Host.Outcome State Fault Refusal :=
  if s.pv then
    match s.clearSums.absorbPayload 0 s.h.payloadSize.toNat with
    | some t => .next ({ t with vok := decide (t.acc = t.h.checksum) }.complete .ok)
    | none => .fault .payByteWithoutValue
  else .next (s.raiseError .illegalCommand)

/-- `START(cw)`, allowed only when `PH = IDLE` (R91): a reserved word completes at once with
`IllegalCommand` (R57, R112); otherwise `OP <- cw[2:0]` and the command's own start. -/
def startEvent (cw : Byte) (s : State) : Host.Outcome State Fault Refusal :=
  whenIdle s <|
    match decode cw with
    | .error _ => .next (s.raiseError .illegalCommand)
    | .ok i =>
      let t := { s with op := opField cw }
      match i with
      | .hdrEnc => startHdrEnc t
      | .hdrDec => startHdrDec t
      | .pktNew => startPktNew t
      | .pktEnc => startPktEnc t
      | .pktDec => startPktDec t
      | .csum => startCsum t
      | .pktVfy => startPktVfy t

/-! ## `BYTE` (R93, R95, R97, R99) -/

/-- `HBUF[IDX] <- b ; IDX <- IDX + 1` (R93, R97). -/
def State.stageByte (s : State) (b : Byte) : State :=
  { s with hbuf := s.hbuf.write s.idx b, idx := s.idx + 1 }

/-- `hdr_unpack(HBUF[0..20])`, if all 21 bytes have a value (R93, R97). -/
def State.stagedHeader (s : State) : Option Header := (s.hbuf.readRange 0 hdrLen).map hdrUnpack

/-- `BYTE(b)` of HDR.DEC (R93): the header is written when the 21st byte has been staged. -/
def byteHdrDec (b : Byte) (s : State) : Host.Outcome State Fault Refusal :=
  if s.idx < hdrLen then
    if s.idx + 1 = hdrLen then
      match (s.stageByte b).stagedHeader with
      | some h => .next ((s.stageByte b).loadHeader h).dropPacket
      | none => .fault .hbufByteWithoutValue
    else .next (s.stageByte b)
  else .next s

/-- `BYTE(b)` of PKT.NEW (R95); one byte more than `PCAP` is outside the envelope. -/
def bytePktNew (b : Byte) (s : State) : Host.Outcome State Fault Refusal :=
  if s.cnt.toNat < s.cfg.pcap.toNat then .next ((s.payWrite s.cnt.toNat b).absorb b)
  else .refused .newOutsideEnvelope

/-- `BYTE(b)` of PKT.DEC (R97): header phase, then payload phase; bytes beyond the buffer are counted, not
stored. -/
def bytePktDec (b : Byte) (s : State) : Host.Outcome State Fault Refusal :=
  if s.idx < hdrLen then
    if s.idx + 1 = hdrLen then
      match (s.stageByte b).stagedHeader with
      | some h => .next ((s.stageByte b).loadHeader h)
      | none => .fault .hbufByteWithoutValue
    else .next (s.stageByte b)
  else .next ((s.payWrite s.cnt.toNat b).absorb b)

/-- `BYTE(b)` of CSUM (R99). -/
def byteCsum (b : Byte) (s : State) : Host.Outcome State Fault Refusal := .next (s.absorb b)

/-- `BYTE(b)`: a byte of the running command's input sequence (R90, R104). -/
def byteEvent (b : Byte) (s : State) : Host.Outcome State Fault Refusal :=
  match s.ph with
  | .idle => .refused .byteWhileIdle
  | .run =>
    match s.op.toNat with
    | 2 => byteHdrDec b s
    | 3 => bytePktNew b s
    | 5 => bytePktDec b s
    | 6 => byteCsum b s
    | _ => .fault .runWithoutInputCommand

/-! ## `END` (R92, R94, R96, R98, R99) -/

/-- `END` of HDR.DEC (R94). -/
def endHdrDec (s : State) : Host.Outcome State Fault Refusal :=
  if s.idx < hdrLen then .next (s.raiseError .insufficientBytes) else .next (s.complete .ok)

/-- `END` of PKT.NEW (R96). -/
def endPktNew (s : State) : Host.Outcome State Fault Refusal :=
  .next ({ s with h := { s.h with payloadSize := s.cnt.setWidth 32, checksum := s.acc } }.holdPacket.complete .ok)

/-- `END` of PKT.DEC (R98), the source's steps 1, 4 and 5 in that order; a failed decode leaves no packet,
so the bytes stored have no architectural value (R14). -/
def endPktDec (s : State) : Host.Outcome State Fault Refusal :=
  if s.idx < hdrLen then .next (s.forgetBytes.raiseError .insufficientBytes)
  else if s.cnt ≠ s.h.payloadSize.setWidth 33 then .next (s.forgetBytes.raiseError .payloadSizeMismatch)
  else if s.cnt.toNat ≤ s.cfg.pcap.toNat then .next (s.holdPacket.complete .ok)
  else .refused .decOutsideEnvelope

/-- `END` of CSUM (R99). -/
def endCsum (s : State) : Host.Outcome State Fault Refusal := .next (s.complete .ok)

/-- `END`: the input sequence has ended; the running command completes (R92, R104). -/
def endEvent (s : State) : Host.Outcome State Fault Refusal :=
  match s.ph with
  | .idle => .refused .endWhileIdle
  | .run =>
    match s.op.toNat with
    | 2 => endHdrDec s
    | 3 => endPktNew s
    | 5 => endPktDec s
    | 6 => endCsum s
    | _ => .fault .runWithoutInputCommand

end Sys2Proof.Machine
end

