-- ==== Sys2Proof/Machine/Port.lean ====
section
/-! DEFINITION. What one host action does (60_exceptions.md R124). -/

namespace Sys2Proof.Machine

/-- A command line, as one atomic transition (R33, R59): the command word is decoded and its command runs over
the whole input sequence. A reserved word completes with `IllegalCommand` and consumes no input (R57); input
given to a word that takes none is `BYTE` while `PH = IDLE` (R104; log 11). -/
def commandAction (cw : Byte) (input : ByteSeq) (s : State) : Host.Outcome State Fault Refusal :=
  match decode cw with
  | .ok i =>
    if i.takesInput || input.isEmpty then exec i { s with input := input }
    else whenIdle s (.refused .byteWhileIdle)
  | .error _ => whenIdle s <|
    if input.isEmpty then .next (s.raiseError .illegalCommand) else .refused .byteWhileIdle

/-- `RD(r)` (R22): changes no state of the block. While `BUSY = 1` only `STATUS` has a value (R105, R136). -/
def readAction (r : Nat) (s : State) : Host.Outcome State Fault Refusal :=
  match s.ph with
  | .idle => .next (s.answerWord (s.readRegister r))
  | .run => if r = 7 then .next (s.answerWord (s.readRegister r)) else .next (s.answerFreeWord r)

/-- `WR(r, v)` (R22), outside the protocol while `BUSY = 1` (R104). -/
def writeAction (r : Nat) (v : BitVec 64) (s : State) : Host.Outcome State Fault Refusal :=
  match s.ph with
  | .idle => .next (s.writeRegister r v)
  | .run => .refused .writeWhileBusy

/-- `RDP(i)` (R36): a payload byte of the packet in the slot; otherwise, and while `BUSY = 1` (R105), an
unspecified byte. -/
def readPayloadAction (i : Nat) (s : State) : Host.Outcome State Fault Refusal :=
  if s.ph = .idle ∧ s.pv = true ∧ i < s.h.payloadSize.toNat then
    match s.pay.read i with
    | some b => .next (s.answerByte b)
    | none => .fault .payByteWithoutValue
  else .next (s.answerFreeByte i)

/-- `RESET` (R130), allowed in any phase: every piece of state as R24 says, no `DONE`. The parameters and
the host's own records are not state of the block and stay (R25; log 22). -/
def resetAction (s : State) : Host.Outcome State Fault Refusal :=
  .next { State.reset with cfg := s.cfg, actions := s.actions, emitted := s.emitted, draws := s.draws }

/-- One host action (R124). -/
def perform (a : Action) (s : State) : Host.Outcome State Fault Refusal :=
  match a with
  | .command cw input => commandAction cw input s
  | .start cw => startEvent cw s
  | .byte b => byteEvent b s
  | .endInput => endEvent s
  | .rd r => readAction r s
  | .wr r v => writeAction r v s
  | .rdp i => readPayloadAction i s
  | .reset => resetAction s

end Sys2Proof.Machine
end

