-- ==== Sys2Proof/Machine/Step.lean ====
section
/-! DEFINITION. One step: the next action of the host (20_memory.md R38), and where a command word stands
for the next step. -/

namespace Sys2Proof.Machine

/-- The block does nothing between host actions (60_exceptions.md R114, R124): with none pending it waits;
otherwise it answers the next one, in the order the host issues them (R38). -/
def step (s : State) : Host.Outcome State Fault Refusal :=
  match s.actions with
  | [] => .next s
  | a :: rest => perform a { s with actions := rest }

/-- `s` with the command word `w` as the host's next command line, its input sequence empty (log 1). -/
def State.withFetchWord (s : State) (_nbits w : Nat) : State :=
  { s with actions := .command (BitVec.ofNat 8 w) [] :: s.actions }

end Sys2Proof.Machine
end

