-- ==== Sys2Proof/Machine/Cluster.lean ====
section
/-! DEFINITION. Several block instances side by side (60_exceptions.md R122; 20_memory.md R41). -/

namespace Sys2Proof.Machine

/-- `N_INST` instances, at least one, each with its own complete state and its own host (R5, R122). -/
structure Cluster where
  members : List State
  atLeastOne : members ≠ []
  deriving DecidableEq, Repr

/-- The instances of a group just after reset, each with its own `PCAP` (R5, R24, R130), numbered in order so that
the free values of one are unrelated to those of another (log 23). Without arguments it is one instance with the
default `PCAP`. -/
def Cluster.reset (g : GroupConfig := {}) : Cluster where
  members := g.capacities.mapIdx fun k c => { State.reset with cfg := { pcap := c, unit := k } }
  atLeastOne := by simpa using g.atLeastOne

/-- The state of instance `k` replaced. -/
def Cluster.setMember (c : Cluster) (k : Nat) (t : State) : Cluster where
  members := c.members.set k t
  atLeastOne := by simpa using c.atLeastOne

/-- Instance `k` takes one step; which one steps next is the caller's choice, the spec orders them not at
all (R122; log 16). -/
def Cluster.stepAt (c : Cluster) (k : Nat) : Host.Outcome Cluster Fault Refusal :=
  match c.members[k]? with
  | none => .refused .noSuchInstance
  | some s =>
    match step s with
    | .next t => .next (c.setMember k t)
    | .fault r => .fault r
    | .refused r => .refused r

end Sys2Proof.Machine
end

