-- ==== Sys2Proof/Machine/Program.lean ====
section
/-! DEFINITION. Host programs: running a list of actions (70_reset_and_hazards.md R142), the events a command
line stands for (30_encoding.md R59), the macros (R60), and what of a state has an architectural value. -/

namespace Sys2Proof.Machine

/-- A list of host actions, one after the other, stopping at the first fault or refusal (R142). -/
def runActions : List Action → State → Host.Outcome State Fault Refusal
  | [], s => .next s
  | a :: rest, s =>
    match perform a s with
    | .next t => runActions rest t
    | .fault r => .fault r
    | .refused r => .refused r

/-- The events a command line stands for: `START(cw)`, then, for a command with an input sequence, one
`BYTE(b)` a byte and `END` (R59, R90). -/
def commandEvents (cw : Byte) (input : ByteSeq) : List Action :=
  match decode cw with
  | .ok i => if i.takesInput then .start cw :: (input.map .byte ++ [.endInput]) else .start cw :: input.map .byte
  | .error _ => .start cw :: input.map .byte

/-- `NEW mt, seq, sid, { payload }` (R60). -/
def newMacro (mt : BitVec 8) (seq : BitVec 32) (sid : BitVec 64) (payload : ByteSeq) : List Action :=
  [.wr 0 (mt.setWidth 64), .wr 1 (seq.setWidth 64), .wr 2 sid, .command 0x03#8 payload]

/-- `ENCH mt, seq, sid, psz, csum` (R60), the five fields as one header. -/
def enchMacro (h : Header) : List Action :=
  [.wr 0 (h.messageType.setWidth 64), .wr 1 (h.sequence.setWidth 64), .wr 2 h.senderId,
    .wr 3 (h.payloadSize.setWidth 64), .wr 4 (h.checksum.setWidth 64), .command 0x01#8 []]

/-- `SEND mt, seq, sid, { payload }` (R60). -/
def sendMacro (mt : BitVec 8) (seq : BitVec 32) (sid : BitVec 64) (payload : ByteSeq) : List Action :=
  newMacro mt seq sid payload ++ [.command 0x04#8 []]

/-- The state without what has no architectural value between commands: `OP`, `IDX`, `HBUF` (R21, R142), and
without the input sequence, which is a parameter of a step (R25). -/
def State.arch (s : State) : State := { s with op := 0#3, idx := 0, hbuf := [], input := [] }

/-- An outcome with its state's architectural part only. -/
def archOutcome (o : Host.Outcome State Fault Refusal) : Host.Outcome State Fault Refusal :=
  match o with
  | .next t => .next t.arch
  | .fault r => .fault r
  | .refused r => .refused r

end Sys2Proof.Machine
end

