-- ==== Sys2Proof/WellFormed.lean ====
section
/-! DEFINITION. Which commands and which host actions are written as the spec's grammar asks. -/

namespace Sys2Proof

/-- Every command is well-formed: it has no operand that could be out of range (30_encoding.md R55, R58). -/
def Instr.wellFormed : Instr → Bool
  | .hdrEnc | .hdrDec | .pktNew | .pktEnc | .pktDec | .csum | .pktVfy => true

/-- A command line gives an input sequence only to a command that takes one (R59): a reserved word
"consumes no input sequence" (R57), and HDR.ENC, PKT.ENC, PKT.VFY are `START` alone (R90). Every other
action is well-formed: any register number and any index may be named (R22, R36). -/
def Action.wellFormed : Action → Bool
  | .command cw input =>
    match decode cw with
    | .ok i => i.takesInput || input.isEmpty
    | .error _ => input.isEmpty
  | .start _ | .byte _ | .endInput | .rd _ | .wr _ _ | .rdp _ | .reset => true

end Sys2Proof
end

