-- ==== Sys2Proof/Safety.lean ====
section
/-! DEFINITION. What claims about a run use: the states a run can be in, the host's duties, the envelope,
and the end of a run. -/

namespace Sys2Proof.Machine

/-- `PH = RUN` with one of the two commands that store into `PAY` (10_state.md R20). -/
abbrev State.receiving (s : State) : Prop := s.ph = .run ∧ (s.op = 3#3 ∨ s.op = 5#3)

/-- What holds of every state a run from reset reaches (10_state.md R11 to R21). -/
structure State.Inv (s : State) : Prop where
  /-- `PAY` is in canonical form. -/
  payCanonical : s.pay.wf
  /-- `HBUF` is in canonical form. -/
  hbufCanonical : s.hbuf.wf
  /-- `HBUF` has the indices 0 to 20 (R21). -/
  hbufIndex : ∀ c ∈ s.hbuf, c.1 < hdrLen
  /-- `IDX` stops at 21 (R17, R21). -/
  idxBound : s.idx ≤ hdrLen
  /-- `CNT` saturates at 2^32 (R13). -/
  cntBound : s.cnt.toNat ≤ 2 ^ 32
  /-- A packet's payload is `PAY[0 .. H.PSZ - 1]`, all of it, and fits into `PAY` (R14, R42). -/
  packetPayload : s.pv = true →
    s.pay.map Prod.fst = List.range s.h.payloadSize.toNat ∧ s.h.payloadSize.toNat ≤ s.cfg.pcap.toNat
  /-- `VOK = 1` implies `PV = 1` and that the packet now in the slot verifies (R18). -/
  verifiedPacket : s.vok = true → s.pv = true ∧ checksum (s.pay.map Prod.snd) = s.h.checksum
  /-- Without a packet no byte of `PAY` has a value, but those a running command has stored (R14). -/
  noPacketNoBytes : s.pv = false → ¬ s.receiving → s.pay = []
  /-- Only a command with an input sequence runs (R91). -/
  runningCommand : s.ph = .run → s.op = 2#3 ∨ s.op = 3#3 ∨ s.op = 5#3 ∨ s.op = 6#3
  /-- A command that stores into `PAY` has dropped the packet (R91). -/
  receivingNoPacket : s.receiving → s.pv = false
  /-- A running PKT.NEW has stored and summed `CNT` bytes (R95). -/
  newProgress : s.ph = .run → s.op = 3#3 →
    s.pay.map Prod.fst = List.range s.cnt.toNat ∧ s.cnt.toNat ≤ s.cfg.pcap.toNat ∧
      s.acc = checksum (s.pay.map Prod.snd)
  /-- A running PKT.DEC has stored those of its `CNT` payload bytes that fit (R97). -/
  decProgress : s.ph = .run → s.op = 5#3 →
    s.pay.map Prod.fst = List.range (min s.cnt.toNat s.cfg.pcap.toNat) ∧
      (s.idx < hdrLen → s.cnt = 0#33 ∧ s.acc = 0#32)
  /-- A running decode has staged `IDX` header bytes (R93, R97). -/
  staged : s.ph = .run → s.op = 2#3 ∨ s.op = 5#3 → ∀ k < s.idx, (s.hbuf.read k).isSome

/-- The host's duties (60_exceptions.md R124): `START`, `WR` and a command line only while `BUSY = 0`, `BYTE`
and `END` only while `BUSY = 1`, a command line as R59 writes it. -/
def State.allows (s : State) (a : Action) : Prop :=
  a.wellFormed = true ∧
  match a with
  | .command _ _ | .start _ | .wr _ _ => s.ph = .idle
  | .byte _ | .endInput => s.ph = .run
  | .rd _ | .rdp _ | .reset => True

/-- The envelope (20_memory.md R42): no packet gets a payload longer than `PCAP`, by PKT.NEW or by a PKT.DEC
that would succeed, at either level. -/
def State.inEnvelope (s : State) (a : Action) : Prop :=
  match a with
  | .command cw input =>
    (cw = 0x03#8 → input.length ≤ s.cfg.pcap.toNat) ∧
    (cw = 0x05#8 → hdrLen ≤ input.length →
      input.length - hdrLen = (hdrUnpack (slice input 0 20)).payloadSize.toNat →
      input.length - hdrLen ≤ s.cfg.pcap.toNat)
  | .byte _ => s.ph = .run → s.op = 3#3 → s.cnt.toNat < s.cfg.pcap.toNat
  | .endInput => s.ph = .run → s.op = 5#3 → hdrLen ≤ s.idx →
      s.cnt.toNat = s.h.payloadSize.toNat → s.cnt.toNat ≤ s.cfg.pcap.toNat
  | .start _ | .rd _ | .wr _ _ | .rdp _ | .reset => True

/-- A run is safe when it ends in a next state: no fault and no refusal on the way. -/
def safeRun (as : List Action) (s : State) : Prop := ∃ t, runActions as s = .next t

/-- The end of a run (70_reset_and_hazards.md R142): no action is left and `PH = IDLE`. -/
def State.ended (s : State) : Prop := s.actions = [] ∧ s.ph = .idle

end Sys2Proof.Machine
end

