-- ==== Sys2Proof/Certificates/Slice0/Obligations.lean ====
section
/-! DEFINITION. The statements for the provers. Rule numbers are those of spec/; log numbers those of
notes/assumptions/. -/

open Sys2Proof Sys2Proof.Machine

/-! ## Reset -/

/-- R24, R131: the state after reset, and what every register reads as. -/
def Obligations.ResetLeavesTheListedValues : Prop :=
  State.reset.h = ⟨0#8, 0#32, 0#64, 0#32, 0#32⟩ ∧ State.reset.acc = 0#32 ∧ State.reset.cnt = 0#33 ∧
  State.reset.err = .ok ∧ State.reset.pv = false ∧ State.reset.vok = false ∧ State.reset.busy = false ∧
  State.reset.status = 0#8 ∧ State.reset.ph = .idle ∧ (∀ i, State.reset.pay.read i = none) ∧
  ∀ r, State.reset.readRegister r = 0#64

/-- R130: RESET in any phase gives the values of R24, sends nothing to the host (no `DONE`, no `OUT_END`), and
any command may come first afterwards. (That the parameters stay is log 22.) -/
def Obligations.ResetActionAbandonsEverything : Prop :=
  ∀ s : State, ∃ t, perform .reset s = .next t ∧
    t.h = ⟨0#8, 0#32, 0#64, 0#32, 0#32⟩ ∧ t.acc = 0#32 ∧ t.cnt = 0#33 ∧ t.status = 0#8 ∧ t.pv = false ∧
    t.vok = false ∧ t.err = .ok ∧ t.ph = .idle ∧ (∀ i, t.pay.read i = none) ∧
    t.emitted = s.emitted ∧ t.cfg = s.cfg ∧
    ∀ cw, ∃ u, perform (.command cw []) t = .next u

/-! ## The step -/

/-- A step runs the decoded command: the next command line's word decodes to `i`, so the step is `exec i` on
that line's input sequence, the line taken off the list (R38, R59; logs 1, 2). A word placed by
`withFetchWord` is run by the very next step. -/
def Obligations.StepRunsTheDecodedCommand : Prop :=
  (∀ (s : State) (cw : Byte) (input : ByteSeq) (rest : List Action) (i : Instr),
    s.actions = .command cw input :: rest → decode cw = .ok i → i.wellFormed = true →
    (Action.command cw input).wellFormed = true →
    step s = exec i { s with actions := rest, input := input }) ∧
  (∀ (s : State) (w : Nat) (i : Instr), decodeTableWord 8 w = some i →
    step (s.withFetchWord 8 w) = exec i { s with input := [] })

/-- R38, R142: the steps of the machine are the host's actions, one a step, in the order given: as many steps
as there are pending actions run exactly that list; with none pending the block does nothing. -/
def Obligations.StepsRunThePendingActionsInOrder : Prop :=
  (∀ s : State, s.actions = [] → step s = .next s) ∧
  ∀ s : State, Host.Core.run core s.actions.length s = runActions s.actions { s with actions := [] }

/-! ## The command word -/

/-- R56: the opcode map, and the table's words. -/
def Obligations.CommandWordsOfTheOpcodeMap : Prop :=
  decode 0x01#8 = .ok .hdrEnc ∧ decode 0x02#8 = .ok .hdrDec ∧ decode 0x03#8 = .ok .pktNew ∧
  decode 0x04#8 = .ok .pktEnc ∧ decode 0x05#8 = .ok .pktDec ∧ decode 0x06#8 = .ok .csum ∧
  decode 0x07#8 = .ok .pktVfy

/-- R55, R56: decoding the encoded word of a command gives the command, and no other word does. -/
def Obligations.DecodeAndEncodeAgree : Prop :=
  ∀ (i : Instr) (cw : Byte), i.wellFormed = true → (decode cw = .ok i ↔ cw = encode i)

/-- R57, R112, R113: `0x00` and every word of `0x08` and above, and no other, is reserved; these are 249 words. A
reserved word completes at once with `IllegalCommand` and changes nothing else, at both levels. -/
def Obligations.ReservedWordsCompleteWithIllegalCommand : Prop :=
  (∀ cw : Byte, (∃ e, decode cw = .error e) ↔ (cw = 0x00#8 ∨ 8 ≤ cw.toNat)) ∧
  ((List.range 256).filter fun n => (decodeTableWord 8 n).isNone).length = 249 ∧
  ∀ (s : State) (cw : Byte), s.ph = .idle → (cw = 0x00#8 ∨ 8 ≤ cw.toNat) →
    perform (.command cw []) s =
      .next { s with err := .illegalCommand, emitted := s.emitted ++ [.done] } ∧
    perform (.start cw) s =
      .next { s with err := .illegalCommand, emitted := s.emitted ++ [.done] }

/-! ## The wire format -/

/-- R46 (R30, R31): which bits of which field each wire byte carries. -/
def Obligations.HeaderBytesFollowTheOffsetTable : Prop :=
  ∀ h : Header, hdrPack h =
    [h.messageType,
     h.sequence.extractLsb' 0 8, h.sequence.extractLsb' 8 8, h.sequence.extractLsb' 16 8,
     h.sequence.extractLsb' 24 8,
     h.senderId.extractLsb' 0 8, h.senderId.extractLsb' 8 8, h.senderId.extractLsb' 16 8,
     h.senderId.extractLsb' 24 8, h.senderId.extractLsb' 32 8, h.senderId.extractLsb' 40 8,
     h.senderId.extractLsb' 48 8, h.senderId.extractLsb' 56 8,
     h.payloadSize.extractLsb' 0 8, h.payloadSize.extractLsb' 8 8, h.payloadSize.extractLsb' 16 8,
     h.payloadSize.extractLsb' 24 8,
     h.checksum.extractLsb' 0 8, h.checksum.extractLsb' 8 8, h.checksum.extractLsb' 16 8,
     h.checksum.extractLsb' 24 8]

/-- R8: byte `k` of `le_N(v)` is `v[8k+7:8k]`, `from_le_N` is the sum of `b[k] * 2^(8k)`, and the two are inverse, for `N`
of 32 and 64. -/
def Obligations.LittleEndianPrimitivesAreInverse : Prop :=
  (∀ (v : BitVec 32) (k : Nat), k < 4 → (toLe 4 v)[k]? = some (v.extractLsb' (8 * k) 8)) ∧
  (∀ (v : BitVec 64) (k : Nat), k < 8 → (toLe 8 v)[k]? = some (v.extractLsb' (8 * k) 8)) ∧
  (∀ b : ByteSeq, b.length = 4 → (fromLe 32 b).toNat = (b.mapIdx fun k c => c.toNat * 2 ^ (8 * k)).sum) ∧
  (∀ b : ByteSeq, b.length = 8 → (fromLe 64 b).toNat = (b.mapIdx fun k c => c.toNat * 2 ^ (8 * k)).sum) ∧
  (∀ v : BitVec 32, fromLe 32 (toLe 4 v) = v) ∧ (∀ v : BitVec 64, fromLe 64 (toLe 8 v) = v) ∧
  (∀ b : ByteSeq, b.length = 4 → toLe 4 (fromLe 32 b) = b) ∧
  (∀ b : ByteSeq, b.length = 8 → toLe 8 (fromLe 64 b) = b)

/-- R51: `hdr_pack` and `hdr_unpack` are inverse bijections between headers and 21-byte sequences. -/
def Obligations.HeaderPackAndUnpackAreInverse : Prop :=
  (∀ h : Header, (hdrPack h).length = 21 ∧ hdrUnpack (hdrPack h) = h) ∧
  (∀ b : ByteSeq, b.length = 21 → hdrPack (hdrUnpack b) = b)

/-! ## The checksum -/

/-- R84, R80: the laws of `checksum`. -/
def Obligations.ChecksumDependsOnTheByteSumOnly : Prop :=
  checksum [] = 0#32 ∧
  checksum [1#8, 2#8, 3#8] = 6#32 ∧ checksum [3#8, 2#8, 1#8] = 6#32 ∧
  (∀ s : ByteSeq, (checksum s).toNat = (s.map BitVec.toNat).sum % 2 ^ 32) ∧
  (∀ s t : ByteSeq, checksum (s ++ t) = checksum s + checksum t) ∧
  (∀ s t : ByteSeq, s.Perm t → checksum s = checksum t) ∧
  (∀ (s t : ByteSeq) (k : Nat), checksum (s ++ List.replicate k 0#8 ++ t) = checksum (s ++ t)) ∧
  (∀ s t : ByteSeq, (s.map BitVec.toNat).sum = (t.map BitVec.toNat).sum → checksum s = checksum t)

/-- R85: no sequence of fewer than 16,843,010 bytes wraps; 16,843,009 bytes of FF give 2^32 - 1 and one more
gives 254. -/
def Obligations.ChecksumFirstWrapsAt16843010Bytes : Prop :=
  (∀ s : ByteSeq, s.length < 16843010 → (checksum s).toNat = (s.map BitVec.toNat).sum) ∧
  checksum (List.replicate 16843009 0xFF#8) = 0xFFFFFFFF#32 ∧
  checksum (List.replicate 16843010 0xFF#8) = 254#32

/-- R82: what `clear` and `absorb` do, and that `clear`, then `absorb` of each byte, leaves the checksum and the saturated
count; nothing else changes. -/
def Obligations.AbsorbingBytesComputesTheChecksum : Prop :=
  (∀ s : State, s.clearSums = { s with acc := 0#32, cnt := 0#33 }) ∧
  (∀ (s : State) (b : Byte), s.absorb b = { s with
    acc := BitVec.ofNat 32 (s.acc.toNat + b.toNat),
    cnt := if s.cnt.toNat < 2 ^ 32 then s.cnt + 1#33 else BitVec.ofNat 33 (2 ^ 32) }) ∧
  ∀ (s : State) (bs : ByteSeq), bs.foldl State.absorb s.clearSums =
    { s with acc := checksum bs, cnt := BitVec.ofNat 33 (min bs.length (2 ^ 32)) }

/-! ## The commands at the command level: result, completion and frame -/

/-- R65: HDR.ENC emits the 21 header bytes and changes only `ERR`. -/
def Obligations.HdrEncEmitsTheHeader : Prop :=
  decode 0x01#8 = .ok .hdrEnc ∧
  ∀ s : State, s.ph = .idle → exec .hdrEnc s =
    .next { s with err := .ok, emitted := s.emitted ++ (hdrPack s.h).map .out ++ [.outEnd, .done] }

/-- R66, R68: HDR.DEC on every input: with fewer than 21 bytes only `ERR` changes; otherwise `H` is the header of
the first 21 bytes, whatever follows them, the slot is empty and no byte of `PAY` has a value (R23, log 7).
`ACC` and `CNT` stay. -/
def Obligations.HdrDecReadsTheFirst21Bytes : Prop :=
  (∀ s : State, s.ph = .idle → s.input.length < 21 → exec .hdrDec s =
    .next { s with err := .insufficientBytes, input := [], emitted := s.emitted ++ [.done] }) ∧
  (∀ (s : State) (h : Header) (rest : ByteSeq), s.ph = .idle → s.input = hdrPack h ++ rest → exec .hdrDec s =
    .next { s with
      h := h, pv := false, vok := false, pay := [], err := .ok, input := [],
      emitted := s.emitted ++ [.done] }) ∧
  (∀ s : State, 21 ≤ s.input.length → ∃ h rest, s.input = hdrPack h ++ rest)

/-- R70: PKT.NEW puts the packet into the slot: `H.PSZ` the length, `H.CSUM` the checksum, `PAY[i]` the input's
byte `i`; `H.MT`, `H.SEQ`, `H.SID` stay. That no other byte of `PAY` has a value afterwards is log 7; that `OP`, `IDX`,
`HBUF` stay is log 18. -/
def Obligations.PktNewBuildsThePacket : Prop :=
  decode 0x03#8 = .ok .pktNew ∧
  ∀ s : State, s.ph = .idle → s.input.length ≤ s.cfg.pcap.toNat → exec .pktNew s =
    .next { s with
      h := { s.h with payloadSize := BitVec.ofNat 32 s.input.length, checksum := checksum s.input },
      acc := checksum s.input, cnt := BitVec.ofNat 33 s.input.length,
      pay := (List.range s.input.length).zip s.input, pv := true, vok := false, err := .ok, input := [],
      emitted := s.emitted ++ [.done] }

/-- R42, R71: a payload longer than `PCAP`, 2^32 bytes or more included, has no result and is refused (log 12). -/
def Obligations.PktNewRefusesBeyondTheEnvelope : Prop :=
  ∀ s : State, s.ph = .idle → (s.cfg.pcap.toNat < s.input.length ∨ 2 ^ 32 ≤ s.input.length) →
    exec .pktNew s = .refused .newOutsideEnvelope

/-- R72: PKT.ENC emits header and payload of the packet in the slot and changes only `ERR`; without a packet it
emits nothing and gives `IllegalCommand`. -/
def Obligations.PktEncEmitsThePacket : Prop :=
  decode 0x04#8 = .ok .pktEnc ∧
  (∀ (s : State) (p : ByteSeq), s.ph = .idle → s.pv = true → s.payload = some p → exec .pktEnc s =
    .next { s with err := .ok, emitted := s.emitted ++ (hdrPack s.h ++ p).map .out ++ [.outEnd, .done] }) ∧
  (∀ s : State, s.ph = .idle → s.pv = false → exec .pktEnc s =
    .next { s with err := .illegalCommand, emitted := s.emitted ++ [.done] })

/-- R73: PKT.DEC with fewer than 21 bytes: `InsufficientBytes`, `H` unchanged, `ACC` and `CNT` 0, no packet. -/
def Obligations.PktDecReportsInsufficientBytes : Prop :=
  ∀ s : State, s.ph = .idle → s.input.length < 21 → exec .pktDec s =
    .next { s with
      acc := 0#32, cnt := 0#33, pv := false, vok := false, pay := [], err := .insufficientBytes, input := [],
      emitted := s.emitted ++ [.done] }

/-- R73: PKT.DEC of a header `h` and a candidate payload of another length than `h` declares, compared as natural
numbers: `PayloadSizeMismatch`, `H` holds `h`, `ACC` and `CNT` describe the candidate, no packet. -/
def Obligations.PktDecReportsPayloadSizeMismatch : Prop :=
  ∀ (s : State) (h : Header) (cand : ByteSeq), s.ph = .idle → s.input = hdrPack h ++ cand →
    cand.length ≠ h.payloadSize.toNat → exec .pktDec s =
    .next { s with
      h := h, acc := checksum cand, cnt := BitVec.ofNat 33 (min cand.length (2 ^ 32)), pv := false, vok := false,
      pay := [], err := .payloadSizeMismatch, input := [], emitted := s.emitted ++ [.done] }

/-- R73: PKT.DEC of a header `h` and a candidate payload of the length `h` declares, within `PCAP`: the slot holds
the packet; whatever `h.checksum` is (R74). -/
def Obligations.PktDecAcceptsTheExactLength : Prop :=
  ∀ (s : State) (h : Header) (cand : ByteSeq), s.ph = .idle → s.input = hdrPack h ++ cand →
    cand.length = h.payloadSize.toNat → cand.length ≤ s.cfg.pcap.toNat → exec .pktDec s =
    .next { s with
      h := h, acc := checksum cand, cnt := BitVec.ofNat 33 cand.length, pay := (List.range cand.length).zip cand,
      pv := true, vok := false, err := .ok, input := [], emitted := s.emitted ++ [.done] }

/-- R42: PKT.DEC that would succeed with a payload longer than `PCAP` is refused (log 12); every other input of
at least 21 bytes completes. -/
def Obligations.PktDecRefusesOnlyBeyondTheEnvelope : Prop :=
  ∀ (s : State) (h : Header) (cand : ByteSeq), s.ph = .idle → s.input = hdrPack h ++ cand →
    (exec .pktDec s = .refused .decOutsideEnvelope ↔
      cand.length = h.payloadSize.toNat ∧ s.cfg.pcap.toNat < cand.length) ∧
    (exec .pktDec s ≠ .refused .decOutsideEnvelope → ∃ t, exec .pktDec s = .next t)

/-- R74: the result of PKT.DEC does not depend on the checksum field: two inputs that differ there only (bytes 17
to 20) end alike, but for `H.CSUM`. -/
def Obligations.PktDecNeverLooksAtTheChecksum : Prop :=
  ∀ (s : State) (h : Header) (c : BitVec 32) (cand : ByteSeq) (t : State), s.ph = .idle →
    exec .pktDec { s with input := hdrPack h ++ cand } = .next t →
    exec .pktDec { s with input := hdrPack { h with checksum := c } ++ cand } =
      .next { t with h := { t.h with checksum := c } }

/-- R75: PKT.VFY recomputes the checksum of the packet in the slot; `VOK` is the comparison with `H.CSUM` and a
difference is no error (R117); without a packet `IllegalCommand`. That `OP`, `IDX`, `HBUF` stay is log 18. -/
def Obligations.PktVfyComparesTheChecksum : Prop :=
  decode 0x07#8 = .ok .pktVfy ∧
  (∀ (s : State) (p : ByteSeq), s.ph = .idle → s.pv = true → s.payload = some p → exec .pktVfy s =
    .next { s with
      acc := checksum p, cnt := s.h.payloadSize.setWidth 33, vok := decide (checksum p = s.h.checksum),
      err := .ok, emitted := s.emitted ++ [.done] }) ∧
  (∀ s : State, s.ph = .idle → s.pv = false → exec .pktVfy s =
    .next { s with err := .illegalCommand, emitted := s.emitted ++ [.done] })

/-- R81: CSUM leaves the checksum and the saturated count of any input and touches no packet. That `OP`, `IDX`, `HBUF`
stay is log 18. -/
def Obligations.CsumSumsAnyBytes : Prop :=
  decode 0x06#8 = .ok .csum ∧
  ∀ s : State, s.ph = .idle → exec .csum s =
    .next { s with
      acc := checksum s.input, cnt := BitVec.ofNat 33 (min s.input.length (2 ^ 32)), err := .ok, input := [],
      emitted := s.emitted ++ [.done] }

/-- R14, R20, R37: byte by byte, what of `PAY` an action leaves, changes or drops (dropped bytes: log 7). Commands that
store nothing leave every byte; PKT.NEW and a successful PKT.DEC leave exactly the payload; a `BYTE` stores at index `CNT`
only, below `PCAP` only. -/
def Obligations.PayloadBufferFrame : Prop :=
  (∀ (i : Instr) (s t : State), i = .hdrEnc ∨ i = .pktEnc ∨ i = .csum ∨ i = .pktVfy → exec i s = .next t →
    ∀ j, t.pay.read j = s.pay.read j) ∧
  (∀ s t : State, exec .hdrDec s = .next t →
    ∀ j, t.pay.read j = if s.input.length < 21 then s.pay.read j else none) ∧
  (∀ s t : State, exec .pktNew s = .next t → ∀ j, t.pay.read j = s.input[j]?) ∧
  (∀ s t : State, exec .pktDec s = .next t →
    ∀ j, t.pay.read j = if t.pv then (s.input.drop 21)[j]? else none) ∧
  (∀ (b : Byte) (s t : State), perform (.byte b) s = .next t → ∀ j, t.pay.read j =
    if s.op = 3#3 ∨ (s.op = 5#3 ∧ 21 ≤ s.idx) then
      if j = s.cnt.toNat ∧ j < s.cfg.pcap.toNat then some b else s.pay.read j
    else if s.op = 2#3 ∧ s.idx = 20 then none else s.pay.read j)

/-! ## Laws of the commands -/

/-- R75's corner case, from R70: a packet made by PKT.NEW always verifies. -/
def Obligations.NewPacketAlwaysVerifies : Prop :=
  ∀ s t : State, s.ph = .idle → exec .pktNew s = .next t →
    ∃ u, exec .pktVfy t = .next u ∧ u.vok = true ∧ u.err = .ok

/-- R67: `ENCH` of a header, then HDR.DEC of the bytes emitted, gives the header back; and HDR.DEC of any 21 bytes
or more, then HDR.ENC, emits the first 21. -/
def Obligations.HeaderRoundTrip : Prop :=
  (∀ (s : State) (h : Header), s.ph = .idle → ∃ (t : State) (out : ByteSeq),
    runActions (enchMacro h) s = .next t ∧ t.emitted = s.emitted ++ out.map .out ++ [.outEnd, .done] ∧
    ∃ u, perform (.command 0x02#8 out) t = .next u ∧ u.h = h ∧ u.err = .ok) ∧
  (∀ (s : State) (bs : ByteSeq), s.ph = .idle → 21 ≤ bs.length → ∃ t,
    runActions [.command 0x02#8 bs, .command 0x01#8 []] s = .next t ∧
    t.emitted = s.emitted ++ [.done] ++ (bs.take 21).map .out ++ [.outEnd, .done])

/-- R76: `SEND`, then PKT.DEC of the bytes emitted, on this or on any other idle instance that can hold the payload,
gives the same packet. -/
def Obligations.PacketRoundTrip : Prop :=
  ∀ (s : State) (mt : BitVec 8) (seq : BitVec 32) (sid : BitVec 64) (p : ByteSeq), s.ph = .idle →
    p.length ≤ s.cfg.pcap.toNat → ∃ t out,
      out = hdrPack ⟨mt, seq, sid, BitVec.ofNat 32 p.length, checksum p⟩ ++ p ∧
      runActions (sendMacro mt seq sid p) s = .next t ∧
      t.emitted = s.emitted ++ [.done] ++ out.map .out ++ [.outEnd, .done] ∧ t.ph = .idle ∧ t.cfg = s.cfg ∧
      ∀ r : State, r.ph = .idle → p.length ≤ r.cfg.pcap.toNat → ∃ u,
        perform (.command 0x05#8 out) r = .next u ∧ u.err = .ok ∧ u.pv = true ∧
        u.h = ⟨mt, seq, sid, BitVec.ofNat 32 p.length, checksum p⟩ ∧ u.payload = some p

/-- R77: truncating or padding the payload of what PKT.ENC emitted makes PKT.DEC report `PayloadSizeMismatch`, and
truncating into the header `InsufficientBytes`; no packet in either case. -/
def Obligations.TruncatedOrPaddedPacketIsRejected : Prop :=
  ∀ (s : State) (p : ByteSeq) (r : State), s.pv = true → s.payload = some p → r.ph = .idle →
    (∀ k, 1 ≤ k → k ≤ p.length → ∃ u,
      perform (.command 0x05#8 ((hdrPack s.h ++ p).take (21 + p.length - k))) r = .next u ∧
      u.err = .payloadSizeMismatch ∧ u.pv = false) ∧
    (∀ tail : ByteSeq, tail ≠ [] → ∃ u,
      perform (.command 0x05#8 (hdrPack s.h ++ p ++ tail)) r = .next u ∧
      u.err = .payloadSizeMismatch ∧ u.pv = false) ∧
    (∀ n, n < 21 → ∃ u,
      perform (.command 0x05#8 ((hdrPack s.h ++ p).take n)) r = .next u ∧
      u.err = .insufficientBytes ∧ u.pv = false)

/-- R118, R115: the one code with which each command ends, whenever it completes; a reserved word always ends with
`IllegalCommand`. -/
def Obligations.ResultCodeOfEachCommand : Prop :=
  (∀ (s t : State) (cw : Byte), (cw = 0x00#8 ∨ 8 ≤ cw.toNat) → perform (.command cw []) s = .next t →
    t.err = .illegalCommand) ∧
  ∀ (i : Instr) (s t : State), exec i s = .next t →
    t.err = match i with
      | .hdrEnc | .pktNew | .csum => .ok
      | .hdrDec => if s.input.length < 21 then .insufficientBytes else .ok
      | .pktEnc | .pktVfy => if s.pv then .ok else .illegalCommand
      | .pktDec =>
        if s.input.length < 21 then .insufficientBytes
        else if s.input.length - 21 = (hdrUnpack (s.input.take 21)).payloadSize.toNat then .ok
        else .payloadSizeMismatch

/-- R102, R113, R116: every command line that completes sends `DONE` once, last, leaves the block idle, and sends
output only when it ends with `OK`. -/
def Obligations.EveryCommandEndsWithOneDone : Prop :=
  ∀ (s t : State) (cw : Byte) (input : ByteSeq), perform (.command cw input) s = .next t →
    t.ph = .idle ∧ ∃ outs, t.emitted = s.emitted ++ outs ++ [.done] ∧ .done ∉ outs ∧ (t.err ≠ .ok → outs = [])

/-! ## STATUS and the ports -/

/-- R15, R19: the bits of `STATUS`. -/
def Obligations.StatusBitsAreTheFlags : Prop :=
  ∀ s : State,
    s.status.extractLsb' 0 2 = (match s.err with
      | .ok => 0#2 | .insufficientBytes => 1#2 | .payloadSizeMismatch => 2#2 | .illegalCommand => 3#2) ∧
    s.status.getLsbD 2 = s.pv ∧ s.status.getLsbD 3 = s.vok ∧
    (s.status.getLsbD 4 = true ↔ s.ph ≠ .idle) ∧ s.status.extractLsb' 5 3 = 0#3

/-- R22, R10: the register port while `BUSY = 0`. `RD` returns the register, or 0 for a number of 8 and above, and
changes no state. `WR` writes the low bits to a header register and empties the slot, so that no byte of `PAY` has a
value (R14, log 7); it does nothing to the other numbers. -/
def Obligations.RegisterPortReadsAndWrites : Prop :=
  ∀ s : State, s.ph = .idle →
    (∀ r, perform (.rd r) s = .next { s with emitted := s.emitted ++ [.rdValue (
      if r = 0 then s.h.messageType.setWidth 64 else if r = 1 then s.h.sequence.setWidth 64
      else if r = 2 then s.h.senderId else if r = 3 then s.h.payloadSize.setWidth 64
      else if r = 4 then s.h.checksum.setWidth 64 else if r = 5 then s.acc.setWidth 64
      else if r = 6 then s.cnt.setWidth 64 else if r = 7 then s.status.setWidth 64 else 0#64)] }) ∧
    ∀ v : BitVec 64,
      perform (.wr 0 v) s = .next { s with
        h := { s.h with messageType := v.extractLsb' 0 8 }, pv := false, vok := false, pay := [] } ∧
      perform (.wr 1 v) s = .next { s with
        h := { s.h with sequence := v.extractLsb' 0 32 }, pv := false, vok := false, pay := [] } ∧
      perform (.wr 2 v) s = .next { s with
        h := { s.h with senderId := v }, pv := false, vok := false, pay := [] } ∧
      perform (.wr 3 v) s = .next { s with
        h := { s.h with payloadSize := v.extractLsb' 0 32 }, pv := false, vok := false, pay := [] } ∧
      perform (.wr 4 v) s = .next { s with
        h := { s.h with checksum := v.extractLsb' 0 32 }, pv := false, vok := false, pay := [] } ∧
      ∀ r, 5 ≤ r → perform (.wr r v) s = .next s

/-- R105, R136: while a command runs `RD(7)` returns `STATUS` with `BUSY = 1`; any other register read and any payload
read returns some value, of which nothing is said, and changes no state of the block. -/
def Obligations.ReadsWhileBusy : Prop :=
  ∀ s : State, s.ph = .run →
    (perform (.rd 7) s = .next { s with emitted := s.emitted ++ [.rdValue (s.status.setWidth 64)] } ∧
      s.status.getLsbD 4 = true) ∧
    (∀ r, r ≠ 7 → ∃ v, perform (.rd r) s =
      .next { s with emitted := s.emitted ++ [.rdValue v], draws := s.draws + 1 }) ∧
    (∀ i, ∃ b, perform (.rdp i) s =
      .next { s with emitted := s.emitted ++ [.rdpValue b], draws := s.draws + 1 })

/-- R36: in every state a run reaches, `RDP` of an index of the packet in the slot returns that payload byte and changes
no state; of any other index, or without a packet, it returns some byte, of which nothing is said. -/
def Obligations.PayloadPortReadsThePacket : Prop :=
  ∀ (s : State) (i : Nat), s.Inv → s.ph = .idle →
    (s.pv = true ∧ i < s.h.payloadSize.toNat → ∃ p b, s.payload = some p ∧ p[i]? = some b ∧
      perform (.rdp i) s = .next { s with emitted := s.emitted ++ [.rdpValue b] }) ∧
    (¬ (s.pv = true ∧ i < s.h.payloadSize.toNat) → ∃ b, perform (.rdp i) s =
      .next { s with emitted := s.emitted ++ [.rdpValue b], draws := s.draws + 1 })

/-- R104 (U3, logs 10, 11): host actions outside the protocol are refused by name, and so is a command line that gives
bytes to a word that takes none. -/
def Obligations.ActionsOutsideTheProtocolAreRefused : Prop :=
  (∀ (s : State) (cw : Byte) (input : ByteSeq), s.ph = .run →
    perform (.start cw) s = .refused .startWhileBusy ∧
    perform (.command cw input) s = .refused .startWhileBusy) ∧
  (∀ (s : State) (r : Nat) (v : BitVec 64), s.ph = .run → perform (.wr r v) s = .refused .writeWhileBusy) ∧
  (∀ (s : State) (b : Byte), s.ph = .idle →
    perform (.byte b) s = .refused .byteWhileIdle ∧ perform .endInput s = .refused .endWhileIdle) ∧
  (∀ (s : State) (cw : Byte) (input : ByteSeq), s.ph = .idle → (Action.command cw input).wellFormed = false →
    perform (.command cw input) s = .refused .byteWhileIdle)

/-- R134, V23: after a write to any header register the packet is gone and PKT.ENC gives `IllegalCommand`, with no
output. -/
def Obligations.HeaderWriteDestroysThePacket : Prop :=
  ∀ (s : State) (r : Nat) (v : BitVec 64), s.ph = .idle → r < 5 → ∃ t,
    runActions [.wr r v, .command 0x04#8 []] s = .next t ∧ t.pv = false ∧ t.err = .illegalCommand ∧
    t.emitted = s.emitted ++ [.done]

/-! ## The byte-serial level -/

/-- R91: `START` of a command with an input sequence, from any idle state. -/
def Obligations.StartOpensTheInputSequence : Prop :=
  ∀ s : State, s.ph = .idle →
    perform (.start 0x02#8) s = .next { s with op := 2#3, idx := 0, ph := .run } ∧
    perform (.start 0x03#8) s = .next { s with
      op := 3#3, acc := 0#32, cnt := 0#33, pv := false, vok := false, pay := [], ph := .run } ∧
    perform (.start 0x05#8) s = .next { s with
      op := 5#3, idx := 0, acc := 0#32, cnt := 0#33, pv := false, vok := false, pay := [], ph := .run } ∧
    perform (.start 0x06#8) s = .next { s with op := 6#3, acc := 0#32, cnt := 0#33, ph := .run }

/-- R97, R93: a running decode stages its first 21 bytes and writes `H` exactly at the 21st; after it HDR.DEC ignores
every byte and PKT.DEC stores it, if `PAY` has room, and absorbs it. -/
def Obligations.DecodeBytesAreStagedThenStored : Prop :=
  (∀ (s : State) (b : Byte), s.ph = .run → s.op = 2#3 ∨ s.op = 5#3 → s.idx < 20 →
    perform (.byte b) s = .next { s with hbuf := s.hbuf.write s.idx b, idx := s.idx + 1 }) ∧
  (∀ (s : State) (b : Byte) (bs : ByteSeq), s.ph = .run → s.idx = 20 → s.hbuf.readRange 0 20 = some bs →
    (s.op = 2#3 → perform (.byte b) s = .next { s with
      hbuf := s.hbuf.write 20 b, idx := 21, h := hdrUnpack (bs ++ [b]), pv := false, vok := false, pay := [] }) ∧
    (s.op = 5#3 → perform (.byte b) s = .next { s with
      hbuf := s.hbuf.write 20 b, idx := 21, h := hdrUnpack (bs ++ [b]) })) ∧
  (∀ (s : State) (b : Byte), s.ph = .run → 21 ≤ s.idx →
    (s.op = 2#3 → perform (.byte b) s = .next s) ∧
    (s.op = 5#3 → perform (.byte b) s = .next { s with
      pay := if s.cnt.toNat < s.cfg.pcap.toNat then s.pay.write s.cnt.toNat b else s.pay,
      acc := s.acc + b.setWidth 32, cnt := satInc s.cnt }))

/-- R95, R99: a byte of PKT.NEW is stored at index `CNT` and absorbed, one byte beyond `PCAP` is refused (log 12); a
byte of CSUM is absorbed. -/
def Obligations.PayloadBytesAreStoredAndAbsorbed : Prop :=
  ∀ (s : State) (b : Byte), s.ph = .run →
    (s.op = 3#3 → s.cnt.toNat < s.cfg.pcap.toNat → perform (.byte b) s = .next { s with
      pay := s.pay.write s.cnt.toNat b, acc := s.acc + b.setWidth 32, cnt := s.cnt + 1#33 }) ∧
    (s.op = 3#3 → s.cfg.pcap.toNat ≤ s.cnt.toNat → perform (.byte b) s = .refused .newOutsideEnvelope) ∧
    (s.op = 6#3 → perform (.byte b) s = .next { s with acc := s.acc + b.setWidth 32, cnt := satInc s.cnt })

/-- R94, R96, R98, R99, R92: `END` completes the running command; the checks of R98 come in the source's order. A
failed PKT.DEC leaves no byte of `PAY` with a value (R14, log 7). -/
def Obligations.EndChoosesTheResult : Prop :=
  ∀ s : State, s.ph = .run →
    (s.op = 2#3 → perform .endInput s = .next { s with
      err := if s.idx < 21 then .insufficientBytes else .ok, ph := .idle, emitted := s.emitted ++ [.done] }) ∧
    (s.op = 3#3 → perform .endInput s = .next { s with
      h := { s.h with payloadSize := s.cnt.extractLsb' 0 32, checksum := s.acc }, pv := true, err := .ok,
      ph := .idle, emitted := s.emitted ++ [.done] }) ∧
    (s.op = 5#3 → s.idx < 21 → perform .endInput s = .next { s with
      pay := [], err := .insufficientBytes, ph := .idle, emitted := s.emitted ++ [.done] }) ∧
    (s.op = 5#3 → 21 ≤ s.idx → s.cnt.toNat ≠ s.h.payloadSize.toNat → perform .endInput s = .next { s with
      pay := [], err := .payloadSizeMismatch, ph := .idle, emitted := s.emitted ++ [.done] }) ∧
    (s.op = 5#3 → 21 ≤ s.idx → s.cnt.toNat = s.h.payloadSize.toNat → s.cnt.toNat ≤ s.cfg.pcap.toNat →
      perform .endInput s = .next { s with
        pv := true, err := .ok, ph := .idle, emitted := s.emitted ++ [.done] }) ∧
    (s.op = 6#3 → perform .endInput s = .next { s with
      err := .ok, ph := .idle, emitted := s.emitted ++ [.done] })

/-- R103, headline: from every idle state, for every command line (every command word, reserved ones too, and every input
sequence the word may have), the events it stands for end exactly as the command level says: same registers, flags, `PAY`,
output, or the same refusal or fault. R103 speaks of inputs inside the envelope only: that the two levels also stop alike
outside it, and in states no run reaches, is the model's own (logs 12, 21). In a state a run reaches, inside the
envelope, they end in `IDLE`. `OP`, `IDX`, `HBUF` and the input sequence have no value between commands and are left out
(R142; log 18). -/
def Obligations.ByteSerialLevelAgreesWithCommandLevel : Prop :=
  ∀ (s : State) (cw : Byte) (input : ByteSeq), s.ph = .idle → (Action.command cw input).wellFormed = true →
    archOutcome (runActions (commandEvents cw input) s) = archOutcome (perform (.command cw input) s) ∧
    (s.Inv → s.inEnvelope (.command cw input) →
      ∃ t, runActions (commandEvents cw input) s = .next t ∧ t.ph = .idle)

/-! ## Rules of the whole machine -/

/-- R14: `PV` becomes 1 only at the successful end of PKT.NEW or PKT.DEC. -/
def Obligations.PacketBecomesValidOnlyByNewOrDec : Prop :=
  ∀ (a : Action) (s t : State), perform a s = .next t → s.pv = false → t.pv = true →
    t.err = .ok ∧
    ((∃ input, a = .command 0x03#8 input ∨ a = .command 0x05#8 input) ∨
      (a = .endInput ∧ s.ph = .run ∧ (s.op = 3#3 ∨ s.op = 5#3)))

/-- R18, R140: `VOK` becomes 1 only by PKT.VFY; and an action that changes `H` or drops the packet leaves it 0. -/
def Obligations.VerifiedOnlyByPktVfy : Prop :=
  (∀ (a : Action) (s t : State), perform a s = .next t → s.vok = false → t.vok = true →
    a = .command 0x07#8 [] ∨ a = .start 0x07#8) ∧
  (∀ (a : Action) (s t : State), s.Inv → perform a s = .next t → t.h ≠ s.h ∨ t.pv = false → t.vok = false)

/-- R12, R13, R137: only PKT.NEW, PKT.DEC, CSUM, PKT.VFY and RESET change `ACC` or `CNT`; at the byte-serial level their
`START` and `BYTE`. -/
def Obligations.AccumulatorChangesOnlyByItsCommands : Prop :=
  ∀ (a : Action) (s t : State), perform a s = .next t → (t.acc ≠ s.acc ∨ t.cnt ≠ s.cnt) →
    a = .reset ∨ (∃ b, a = .byte b ∧ s.ph = .run ∧ s.op ≠ 2#3) ∨
    ∃ cw, (a = .start cw ∨ ∃ input, a = .command cw input) ∧
      (cw = 0x03#8 ∨ cw = 0x05#8 ∨ cw = 0x06#8 ∨ cw = 0x07#8)

/-- R106: the phase machine: which action takes the block from which phase to which. -/
def Obligations.PhaseMachine : Prop :=
  ∀ (a : Action) (s t : State), perform a s = .next t →
    match a with
    | .command _ _ => s.ph = .idle ∧ t.ph = .idle
    | .start cw => s.ph = .idle ∧
      (t.ph = .run ↔ cw = 0x02#8 ∨ cw = 0x03#8 ∨ cw = 0x05#8 ∨ cw = 0x06#8)
    | .byte _ => s.ph = .run ∧ t.ph = .run ∧ t.op = s.op
    | .endInput => s.ph = .run ∧ t.ph = .idle
    | .rd _ | .rdp _ => t.ph = s.ph
    | .wr _ _ => s.ph = .idle ∧ t.ph = .idle
    | .reset => t.ph = .idle

/-- R38, R101, R25: what the block has sent is never lost or reordered (the record is log 3); only commands, `START`, `END`, `RD`
and `RDP` send anything. That no action changes the parameters is log 5, that none changes the host's own list log 1. -/
def Obligations.SentEventsAreNeverLost : Prop :=
  ∀ (a : Action) (s t : State), perform a s = .next t →
    (∃ new, t.emitted = s.emitted ++ new ∧
      ((∃ b, a = .byte b) ∨ (∃ r v, a = .wr r v) ∨ a = .reset → new = [])) ∧
    t.cfg = s.cfg ∧ t.actions = s.actions

/-- R41, R122: a step of one instance leaves every other instance as it was. -/
def Obligations.InstancesShareNothing : Prop :=
  ∀ (c d : Cluster) (k j : Nat), c.stepAt k = .next d →
    d.members.length = c.members.length ∧ (j ≠ k → d.members[j]? = c.members[j]?) ∧
    ∃ s t, c.members[k]? = some s ∧ step s = .next t ∧ d.members[k]? = some t

/-! ## Invariant and progress -/

/-- The invariant holds after reset. -/
def Obligations.InvariantHoldsAtReset : Prop := State.reset.Inv

/-- Headline: every step keeps the invariant (R13, R14, R17, R18, R21; `PAY` and `HBUF` stay in canonical form), from
every state that has it. -/
def Obligations.EveryStepKeepsTheInvariant : Prop :=
  ∀ s t : State, s.Inv → step s = .next t → t.Inv

/-- R14, R78: the packet of a valid slot has exactly `H.PSZ` bytes. -/
def Obligations.ValidSlotHoldsAPacket : Prop :=
  ∀ s : State, s.Inv → s.pv = true →
    ∃ p, s.payload = some p ∧ p.length = s.h.payloadSize.toNat ∧ p = s.pay.map Prod.snd

/-- Headline, R119, R141: in every state a run reaches, every action of a host that keeps its duties (R124), inside the
envelope (R42), completes: nothing faults, nothing is refused, nothing hangs. -/
def Obligations.DutifulHostIsNeverStopped : Prop :=
  ∀ (a : Action) (s : State), s.Inv → s.allows a → s.inEnvelope a → ∃ t, perform a s = .next t

/-! ## Groups of instances -/

/-- R5, R122: after reset a group has `N_INST` instances, at least one, each in the reset state of R24 with its own
`PCAP`. Their numbers, the model's own (log 23), differ; and no step of any instance changes a parameter or a number. -/
def Obligations.GroupsKeepTheirParameters : Prop :=
  (∀ g : GroupConfig, 1 ≤ g.nInst ∧ (Cluster.reset g).members.length = g.nInst ∧
    (∀ k c, g.capacities[k]? = some c →
      (Cluster.reset g).members[k]? = some { State.reset with cfg := { pcap := c, unit := k } }) ∧
    ((Cluster.reset g).members.map fun s => s.cfg.unit).Nodup) ∧
  (∀ (c d : Cluster) (k : Nat), c.stepAt k = .next d →
    d.members.map State.cfg = c.members.map State.cfg)
end

