-- ==== Sys2Proof/Laws/State.lean ====
section
/-! SUPPORT. One lemma per field per named update of State, so that no later proof unfolds an update. -/

namespace Sys2Proof.Machine

/-- The header length as a numeral, for arithmetic. -/
@[simp] theorem hdrLen_eq : hdrLen = 21 := rfl

variable (s : State)

/-! ## `payWrite` -/

@[simp] theorem State.payWrite_h (i : Nat) (b : Byte) : (s.payWrite i b).h = s.h := rfl
@[simp] theorem State.payWrite_acc (i : Nat) (b : Byte) : (s.payWrite i b).acc = s.acc := rfl
@[simp] theorem State.payWrite_cnt (i : Nat) (b : Byte) : (s.payWrite i b).cnt = s.cnt := rfl
@[simp] theorem State.payWrite_err (i : Nat) (b : Byte) : (s.payWrite i b).err = s.err := rfl
@[simp] theorem State.payWrite_pv (i : Nat) (b : Byte) : (s.payWrite i b).pv = s.pv := rfl
@[simp] theorem State.payWrite_vok (i : Nat) (b : Byte) : (s.payWrite i b).vok = s.vok := rfl
@[simp] theorem State.payWrite_pay (i : Nat) (b : Byte) : (s.payWrite i b).pay = if i < s.cfg.pcap.toNat then s.pay.write i b else s.pay := rfl
@[simp] theorem State.payWrite_ph (i : Nat) (b : Byte) : (s.payWrite i b).ph = s.ph := rfl
@[simp] theorem State.payWrite_op (i : Nat) (b : Byte) : (s.payWrite i b).op = s.op := rfl
@[simp] theorem State.payWrite_idx (i : Nat) (b : Byte) : (s.payWrite i b).idx = s.idx := rfl
@[simp] theorem State.payWrite_hbuf (i : Nat) (b : Byte) : (s.payWrite i b).hbuf = s.hbuf := rfl
@[simp] theorem State.payWrite_cfg (i : Nat) (b : Byte) : (s.payWrite i b).cfg = s.cfg := rfl
@[simp] theorem State.payWrite_input (i : Nat) (b : Byte) : (s.payWrite i b).input = s.input := rfl
@[simp] theorem State.payWrite_actions (i : Nat) (b : Byte) : (s.payWrite i b).actions = s.actions := rfl
@[simp] theorem State.payWrite_emitted (i : Nat) (b : Byte) : (s.payWrite i b).emitted = s.emitted := rfl
@[simp] theorem State.payWrite_draws (i : Nat) (b : Byte) : (s.payWrite i b).draws = s.draws := rfl

/-! ## `clearSums` -/

@[simp] theorem State.clearSums_h : (s.clearSums).h = s.h := rfl
@[simp] theorem State.clearSums_acc : (s.clearSums).acc = 0#32 := rfl
@[simp] theorem State.clearSums_cnt : (s.clearSums).cnt = 0#33 := rfl
@[simp] theorem State.clearSums_err : (s.clearSums).err = s.err := rfl
@[simp] theorem State.clearSums_pv : (s.clearSums).pv = s.pv := rfl
@[simp] theorem State.clearSums_vok : (s.clearSums).vok = s.vok := rfl
@[simp] theorem State.clearSums_pay : (s.clearSums).pay = s.pay := rfl
@[simp] theorem State.clearSums_ph : (s.clearSums).ph = s.ph := rfl
@[simp] theorem State.clearSums_op : (s.clearSums).op = s.op := rfl
@[simp] theorem State.clearSums_idx : (s.clearSums).idx = s.idx := rfl
@[simp] theorem State.clearSums_hbuf : (s.clearSums).hbuf = s.hbuf := rfl
@[simp] theorem State.clearSums_cfg : (s.clearSums).cfg = s.cfg := rfl
@[simp] theorem State.clearSums_input : (s.clearSums).input = s.input := rfl
@[simp] theorem State.clearSums_actions : (s.clearSums).actions = s.actions := rfl
@[simp] theorem State.clearSums_emitted : (s.clearSums).emitted = s.emitted := rfl
@[simp] theorem State.clearSums_draws : (s.clearSums).draws = s.draws := rfl

/-! ## `absorb` -/

@[simp] theorem State.absorb_h (b : Byte) : (s.absorb b).h = s.h := rfl
@[simp] theorem State.absorb_acc (b : Byte) : (s.absorb b).acc = s.acc + b.setWidth 32 := rfl
@[simp] theorem State.absorb_cnt (b : Byte) : (s.absorb b).cnt = satInc s.cnt := rfl
@[simp] theorem State.absorb_err (b : Byte) : (s.absorb b).err = s.err := rfl
@[simp] theorem State.absorb_pv (b : Byte) : (s.absorb b).pv = s.pv := rfl
@[simp] theorem State.absorb_vok (b : Byte) : (s.absorb b).vok = s.vok := rfl
@[simp] theorem State.absorb_pay (b : Byte) : (s.absorb b).pay = s.pay := rfl
@[simp] theorem State.absorb_ph (b : Byte) : (s.absorb b).ph = s.ph := rfl
@[simp] theorem State.absorb_op (b : Byte) : (s.absorb b).op = s.op := rfl
@[simp] theorem State.absorb_idx (b : Byte) : (s.absorb b).idx = s.idx := rfl
@[simp] theorem State.absorb_hbuf (b : Byte) : (s.absorb b).hbuf = s.hbuf := rfl
@[simp] theorem State.absorb_cfg (b : Byte) : (s.absorb b).cfg = s.cfg := rfl
@[simp] theorem State.absorb_input (b : Byte) : (s.absorb b).input = s.input := rfl
@[simp] theorem State.absorb_actions (b : Byte) : (s.absorb b).actions = s.actions := rfl
@[simp] theorem State.absorb_emitted (b : Byte) : (s.absorb b).emitted = s.emitted := rfl
@[simp] theorem State.absorb_draws (b : Byte) : (s.absorb b).draws = s.draws := rfl

/-! ## `takeInput` -/

@[simp] theorem State.takeInput_h : (s.takeInput).h = s.h := rfl
@[simp] theorem State.takeInput_acc : (s.takeInput).acc = s.acc := rfl
@[simp] theorem State.takeInput_cnt : (s.takeInput).cnt = s.cnt := rfl
@[simp] theorem State.takeInput_err : (s.takeInput).err = s.err := rfl
@[simp] theorem State.takeInput_pv : (s.takeInput).pv = s.pv := rfl
@[simp] theorem State.takeInput_vok : (s.takeInput).vok = s.vok := rfl
@[simp] theorem State.takeInput_pay : (s.takeInput).pay = s.pay := rfl
@[simp] theorem State.takeInput_ph : (s.takeInput).ph = s.ph := rfl
@[simp] theorem State.takeInput_op : (s.takeInput).op = s.op := rfl
@[simp] theorem State.takeInput_idx : (s.takeInput).idx = s.idx := rfl
@[simp] theorem State.takeInput_hbuf : (s.takeInput).hbuf = s.hbuf := rfl
@[simp] theorem State.takeInput_cfg : (s.takeInput).cfg = s.cfg := rfl
@[simp] theorem State.takeInput_input : (s.takeInput).input = [] := rfl
@[simp] theorem State.takeInput_actions : (s.takeInput).actions = s.actions := rfl
@[simp] theorem State.takeInput_emitted : (s.takeInput).emitted = s.emitted := rfl
@[simp] theorem State.takeInput_draws : (s.takeInput).draws = s.draws := rfl

/-! ## `emitEvent` -/

@[simp] theorem State.emitEvent_h (e : PortEvent) : (s.emitEvent e).h = s.h := rfl
@[simp] theorem State.emitEvent_acc (e : PortEvent) : (s.emitEvent e).acc = s.acc := rfl
@[simp] theorem State.emitEvent_cnt (e : PortEvent) : (s.emitEvent e).cnt = s.cnt := rfl
@[simp] theorem State.emitEvent_err (e : PortEvent) : (s.emitEvent e).err = s.err := rfl
@[simp] theorem State.emitEvent_pv (e : PortEvent) : (s.emitEvent e).pv = s.pv := rfl
@[simp] theorem State.emitEvent_vok (e : PortEvent) : (s.emitEvent e).vok = s.vok := rfl
@[simp] theorem State.emitEvent_pay (e : PortEvent) : (s.emitEvent e).pay = s.pay := rfl
@[simp] theorem State.emitEvent_ph (e : PortEvent) : (s.emitEvent e).ph = s.ph := rfl
@[simp] theorem State.emitEvent_op (e : PortEvent) : (s.emitEvent e).op = s.op := rfl
@[simp] theorem State.emitEvent_idx (e : PortEvent) : (s.emitEvent e).idx = s.idx := rfl
@[simp] theorem State.emitEvent_hbuf (e : PortEvent) : (s.emitEvent e).hbuf = s.hbuf := rfl
@[simp] theorem State.emitEvent_cfg (e : PortEvent) : (s.emitEvent e).cfg = s.cfg := rfl
@[simp] theorem State.emitEvent_input (e : PortEvent) : (s.emitEvent e).input = s.input := rfl
@[simp] theorem State.emitEvent_actions (e : PortEvent) : (s.emitEvent e).actions = s.actions := rfl
@[simp] theorem State.emitEvent_emitted (e : PortEvent) : (s.emitEvent e).emitted = s.emitted ++ [e] := rfl
@[simp] theorem State.emitEvent_draws (e : PortEvent) : (s.emitEvent e).draws = s.draws := rfl

/-! ## `emitOutput` -/

@[simp] theorem State.emitOutput_h (out : ByteSeq) : (s.emitOutput out).h = s.h := rfl
@[simp] theorem State.emitOutput_acc (out : ByteSeq) : (s.emitOutput out).acc = s.acc := rfl
@[simp] theorem State.emitOutput_cnt (out : ByteSeq) : (s.emitOutput out).cnt = s.cnt := rfl
@[simp] theorem State.emitOutput_err (out : ByteSeq) : (s.emitOutput out).err = s.err := rfl
@[simp] theorem State.emitOutput_pv (out : ByteSeq) : (s.emitOutput out).pv = s.pv := rfl
@[simp] theorem State.emitOutput_vok (out : ByteSeq) : (s.emitOutput out).vok = s.vok := rfl
@[simp] theorem State.emitOutput_pay (out : ByteSeq) : (s.emitOutput out).pay = s.pay := rfl
@[simp] theorem State.emitOutput_ph (out : ByteSeq) : (s.emitOutput out).ph = s.ph := rfl
@[simp] theorem State.emitOutput_op (out : ByteSeq) : (s.emitOutput out).op = s.op := rfl
@[simp] theorem State.emitOutput_idx (out : ByteSeq) : (s.emitOutput out).idx = s.idx := rfl
@[simp] theorem State.emitOutput_hbuf (out : ByteSeq) : (s.emitOutput out).hbuf = s.hbuf := rfl
@[simp] theorem State.emitOutput_cfg (out : ByteSeq) : (s.emitOutput out).cfg = s.cfg := rfl
@[simp] theorem State.emitOutput_input (out : ByteSeq) : (s.emitOutput out).input = s.input := rfl
@[simp] theorem State.emitOutput_actions (out : ByteSeq) : (s.emitOutput out).actions = s.actions := rfl
@[simp] theorem State.emitOutput_emitted (out : ByteSeq) : (s.emitOutput out).emitted = s.emitted ++ out.map .out ++ [.outEnd] := rfl
@[simp] theorem State.emitOutput_draws (out : ByteSeq) : (s.emitOutput out).draws = s.draws := rfl

/-! ## `complete` -/

@[simp] theorem State.complete_h (c : ResultCode) : (s.complete c).h = s.h := rfl
@[simp] theorem State.complete_acc (c : ResultCode) : (s.complete c).acc = s.acc := rfl
@[simp] theorem State.complete_cnt (c : ResultCode) : (s.complete c).cnt = s.cnt := rfl
@[simp] theorem State.complete_err (c : ResultCode) : (s.complete c).err = c := rfl
@[simp] theorem State.complete_pv (c : ResultCode) : (s.complete c).pv = s.pv := rfl
@[simp] theorem State.complete_vok (c : ResultCode) : (s.complete c).vok = s.vok := rfl
@[simp] theorem State.complete_pay (c : ResultCode) : (s.complete c).pay = s.pay := rfl
@[simp] theorem State.complete_ph (c : ResultCode) : (s.complete c).ph = .idle := rfl
@[simp] theorem State.complete_op (c : ResultCode) : (s.complete c).op = s.op := rfl
@[simp] theorem State.complete_idx (c : ResultCode) : (s.complete c).idx = s.idx := rfl
@[simp] theorem State.complete_hbuf (c : ResultCode) : (s.complete c).hbuf = s.hbuf := rfl
@[simp] theorem State.complete_cfg (c : ResultCode) : (s.complete c).cfg = s.cfg := rfl
@[simp] theorem State.complete_input (c : ResultCode) : (s.complete c).input = s.input := rfl
@[simp] theorem State.complete_actions (c : ResultCode) : (s.complete c).actions = s.actions := rfl
@[simp] theorem State.complete_emitted (c : ResultCode) : (s.complete c).emitted = s.emitted ++ [.done] := rfl
@[simp] theorem State.complete_draws (c : ResultCode) : (s.complete c).draws = s.draws := rfl

/-! ## `raiseError` -/

@[simp] theorem State.raiseError_h (e : ResultCode) : (s.raiseError e).h = s.h := rfl
@[simp] theorem State.raiseError_acc (e : ResultCode) : (s.raiseError e).acc = s.acc := rfl
@[simp] theorem State.raiseError_cnt (e : ResultCode) : (s.raiseError e).cnt = s.cnt := rfl
@[simp] theorem State.raiseError_err (e : ResultCode) : (s.raiseError e).err = e := rfl
@[simp] theorem State.raiseError_pv (e : ResultCode) : (s.raiseError e).pv = s.pv := rfl
@[simp] theorem State.raiseError_vok (e : ResultCode) : (s.raiseError e).vok = s.vok := rfl
@[simp] theorem State.raiseError_pay (e : ResultCode) : (s.raiseError e).pay = s.pay := rfl
@[simp] theorem State.raiseError_ph (e : ResultCode) : (s.raiseError e).ph = .idle := rfl
@[simp] theorem State.raiseError_op (e : ResultCode) : (s.raiseError e).op = s.op := rfl
@[simp] theorem State.raiseError_idx (e : ResultCode) : (s.raiseError e).idx = s.idx := rfl
@[simp] theorem State.raiseError_hbuf (e : ResultCode) : (s.raiseError e).hbuf = s.hbuf := rfl
@[simp] theorem State.raiseError_cfg (e : ResultCode) : (s.raiseError e).cfg = s.cfg := rfl
@[simp] theorem State.raiseError_input (e : ResultCode) : (s.raiseError e).input = s.input := rfl
@[simp] theorem State.raiseError_actions (e : ResultCode) : (s.raiseError e).actions = s.actions := rfl
@[simp] theorem State.raiseError_emitted (e : ResultCode) : (s.raiseError e).emitted = s.emitted ++ [.done] := rfl
@[simp] theorem State.raiseError_draws (e : ResultCode) : (s.raiseError e).draws = s.draws := rfl

/-! ## `dropPacket` -/

@[simp] theorem State.dropPacket_h : (s.dropPacket).h = s.h := rfl
@[simp] theorem State.dropPacket_acc : (s.dropPacket).acc = s.acc := rfl
@[simp] theorem State.dropPacket_cnt : (s.dropPacket).cnt = s.cnt := rfl
@[simp] theorem State.dropPacket_err : (s.dropPacket).err = s.err := rfl
@[simp] theorem State.dropPacket_pv : (s.dropPacket).pv = false := rfl
@[simp] theorem State.dropPacket_vok : (s.dropPacket).vok = false := rfl
@[simp] theorem State.dropPacket_pay : (s.dropPacket).pay = [] := rfl
@[simp] theorem State.dropPacket_ph : (s.dropPacket).ph = s.ph := rfl
@[simp] theorem State.dropPacket_op : (s.dropPacket).op = s.op := rfl
@[simp] theorem State.dropPacket_idx : (s.dropPacket).idx = s.idx := rfl
@[simp] theorem State.dropPacket_hbuf : (s.dropPacket).hbuf = s.hbuf := rfl
@[simp] theorem State.dropPacket_cfg : (s.dropPacket).cfg = s.cfg := rfl
@[simp] theorem State.dropPacket_input : (s.dropPacket).input = s.input := rfl
@[simp] theorem State.dropPacket_actions : (s.dropPacket).actions = s.actions := rfl
@[simp] theorem State.dropPacket_emitted : (s.dropPacket).emitted = s.emitted := rfl
@[simp] theorem State.dropPacket_draws : (s.dropPacket).draws = s.draws := rfl

/-! ## `forgetBytes` -/

@[simp] theorem State.forgetBytes_h : (s.forgetBytes).h = s.h := rfl
@[simp] theorem State.forgetBytes_acc : (s.forgetBytes).acc = s.acc := rfl
@[simp] theorem State.forgetBytes_cnt : (s.forgetBytes).cnt = s.cnt := rfl
@[simp] theorem State.forgetBytes_err : (s.forgetBytes).err = s.err := rfl
@[simp] theorem State.forgetBytes_pv : (s.forgetBytes).pv = s.pv := rfl
@[simp] theorem State.forgetBytes_vok : (s.forgetBytes).vok = s.vok := rfl
@[simp] theorem State.forgetBytes_pay : (s.forgetBytes).pay = [] := rfl
@[simp] theorem State.forgetBytes_ph : (s.forgetBytes).ph = s.ph := rfl
@[simp] theorem State.forgetBytes_op : (s.forgetBytes).op = s.op := rfl
@[simp] theorem State.forgetBytes_idx : (s.forgetBytes).idx = s.idx := rfl
@[simp] theorem State.forgetBytes_hbuf : (s.forgetBytes).hbuf = s.hbuf := rfl
@[simp] theorem State.forgetBytes_cfg : (s.forgetBytes).cfg = s.cfg := rfl
@[simp] theorem State.forgetBytes_input : (s.forgetBytes).input = s.input := rfl
@[simp] theorem State.forgetBytes_actions : (s.forgetBytes).actions = s.actions := rfl
@[simp] theorem State.forgetBytes_emitted : (s.forgetBytes).emitted = s.emitted := rfl
@[simp] theorem State.forgetBytes_draws : (s.forgetBytes).draws = s.draws := rfl

/-! ## `holdPacket` -/

@[simp] theorem State.holdPacket_h : (s.holdPacket).h = s.h := rfl
@[simp] theorem State.holdPacket_acc : (s.holdPacket).acc = s.acc := rfl
@[simp] theorem State.holdPacket_cnt : (s.holdPacket).cnt = s.cnt := rfl
@[simp] theorem State.holdPacket_err : (s.holdPacket).err = s.err := rfl
@[simp] theorem State.holdPacket_pv : (s.holdPacket).pv = true := rfl
@[simp] theorem State.holdPacket_vok : (s.holdPacket).vok = s.vok := rfl
@[simp] theorem State.holdPacket_pay : (s.holdPacket).pay = s.pay := rfl
@[simp] theorem State.holdPacket_ph : (s.holdPacket).ph = s.ph := rfl
@[simp] theorem State.holdPacket_op : (s.holdPacket).op = s.op := rfl
@[simp] theorem State.holdPacket_idx : (s.holdPacket).idx = s.idx := rfl
@[simp] theorem State.holdPacket_hbuf : (s.holdPacket).hbuf = s.hbuf := rfl
@[simp] theorem State.holdPacket_cfg : (s.holdPacket).cfg = s.cfg := rfl
@[simp] theorem State.holdPacket_input : (s.holdPacket).input = s.input := rfl
@[simp] theorem State.holdPacket_actions : (s.holdPacket).actions = s.actions := rfl
@[simp] theorem State.holdPacket_emitted : (s.holdPacket).emitted = s.emitted := rfl
@[simp] theorem State.holdPacket_draws : (s.holdPacket).draws = s.draws := rfl

/-! ## `loadHeader` -/

@[simp] theorem State.loadHeader_h (h : Header) : (s.loadHeader h).h = h := rfl
@[simp] theorem State.loadHeader_acc (h : Header) : (s.loadHeader h).acc = s.acc := rfl
@[simp] theorem State.loadHeader_cnt (h : Header) : (s.loadHeader h).cnt = s.cnt := rfl
@[simp] theorem State.loadHeader_err (h : Header) : (s.loadHeader h).err = s.err := rfl
@[simp] theorem State.loadHeader_pv (h : Header) : (s.loadHeader h).pv = s.pv := rfl
@[simp] theorem State.loadHeader_vok (h : Header) : (s.loadHeader h).vok = s.vok := rfl
@[simp] theorem State.loadHeader_pay (h : Header) : (s.loadHeader h).pay = s.pay := rfl
@[simp] theorem State.loadHeader_ph (h : Header) : (s.loadHeader h).ph = s.ph := rfl
@[simp] theorem State.loadHeader_op (h : Header) : (s.loadHeader h).op = s.op := rfl
@[simp] theorem State.loadHeader_idx (h : Header) : (s.loadHeader h).idx = s.idx := rfl
@[simp] theorem State.loadHeader_hbuf (h : Header) : (s.loadHeader h).hbuf = s.hbuf := rfl
@[simp] theorem State.loadHeader_cfg (h : Header) : (s.loadHeader h).cfg = s.cfg := rfl
@[simp] theorem State.loadHeader_input (h : Header) : (s.loadHeader h).input = s.input := rfl
@[simp] theorem State.loadHeader_actions (h : Header) : (s.loadHeader h).actions = s.actions := rfl
@[simp] theorem State.loadHeader_emitted (h : Header) : (s.loadHeader h).emitted = s.emitted := rfl
@[simp] theorem State.loadHeader_draws (h : Header) : (s.loadHeader h).draws = s.draws := rfl

/-! ## `answerWord` -/

@[simp] theorem State.answerWord_h (v : BitVec 64) : (s.answerWord v).h = s.h := rfl
@[simp] theorem State.answerWord_acc (v : BitVec 64) : (s.answerWord v).acc = s.acc := rfl
@[simp] theorem State.answerWord_cnt (v : BitVec 64) : (s.answerWord v).cnt = s.cnt := rfl
@[simp] theorem State.answerWord_err (v : BitVec 64) : (s.answerWord v).err = s.err := rfl
@[simp] theorem State.answerWord_pv (v : BitVec 64) : (s.answerWord v).pv = s.pv := rfl
@[simp] theorem State.answerWord_vok (v : BitVec 64) : (s.answerWord v).vok = s.vok := rfl
@[simp] theorem State.answerWord_pay (v : BitVec 64) : (s.answerWord v).pay = s.pay := rfl
@[simp] theorem State.answerWord_ph (v : BitVec 64) : (s.answerWord v).ph = s.ph := rfl
@[simp] theorem State.answerWord_op (v : BitVec 64) : (s.answerWord v).op = s.op := rfl
@[simp] theorem State.answerWord_idx (v : BitVec 64) : (s.answerWord v).idx = s.idx := rfl
@[simp] theorem State.answerWord_hbuf (v : BitVec 64) : (s.answerWord v).hbuf = s.hbuf := rfl
@[simp] theorem State.answerWord_cfg (v : BitVec 64) : (s.answerWord v).cfg = s.cfg := rfl
@[simp] theorem State.answerWord_input (v : BitVec 64) : (s.answerWord v).input = s.input := rfl
@[simp] theorem State.answerWord_actions (v : BitVec 64) : (s.answerWord v).actions = s.actions := rfl
@[simp] theorem State.answerWord_emitted (v : BitVec 64) : (s.answerWord v).emitted = s.emitted ++ [.rdValue v] := rfl
@[simp] theorem State.answerWord_draws (v : BitVec 64) : (s.answerWord v).draws = s.draws := rfl

/-! ## `answerByte` -/

@[simp] theorem State.answerByte_h (b : Byte) : (s.answerByte b).h = s.h := rfl
@[simp] theorem State.answerByte_acc (b : Byte) : (s.answerByte b).acc = s.acc := rfl
@[simp] theorem State.answerByte_cnt (b : Byte) : (s.answerByte b).cnt = s.cnt := rfl
@[simp] theorem State.answerByte_err (b : Byte) : (s.answerByte b).err = s.err := rfl
@[simp] theorem State.answerByte_pv (b : Byte) : (s.answerByte b).pv = s.pv := rfl
@[simp] theorem State.answerByte_vok (b : Byte) : (s.answerByte b).vok = s.vok := rfl
@[simp] theorem State.answerByte_pay (b : Byte) : (s.answerByte b).pay = s.pay := rfl
@[simp] theorem State.answerByte_ph (b : Byte) : (s.answerByte b).ph = s.ph := rfl
@[simp] theorem State.answerByte_op (b : Byte) : (s.answerByte b).op = s.op := rfl
@[simp] theorem State.answerByte_idx (b : Byte) : (s.answerByte b).idx = s.idx := rfl
@[simp] theorem State.answerByte_hbuf (b : Byte) : (s.answerByte b).hbuf = s.hbuf := rfl
@[simp] theorem State.answerByte_cfg (b : Byte) : (s.answerByte b).cfg = s.cfg := rfl
@[simp] theorem State.answerByte_input (b : Byte) : (s.answerByte b).input = s.input := rfl
@[simp] theorem State.answerByte_actions (b : Byte) : (s.answerByte b).actions = s.actions := rfl
@[simp] theorem State.answerByte_emitted (b : Byte) : (s.answerByte b).emitted = s.emitted ++ [.rdpValue b] := rfl
@[simp] theorem State.answerByte_draws (b : Byte) : (s.answerByte b).draws = s.draws := rfl

/-! ## `answerFreeWord` -/

@[simp] theorem State.answerFreeWord_h (r : Nat) : (s.answerFreeWord r).h = s.h := rfl
@[simp] theorem State.answerFreeWord_acc (r : Nat) : (s.answerFreeWord r).acc = s.acc := rfl
@[simp] theorem State.answerFreeWord_cnt (r : Nat) : (s.answerFreeWord r).cnt = s.cnt := rfl
@[simp] theorem State.answerFreeWord_err (r : Nat) : (s.answerFreeWord r).err = s.err := rfl
@[simp] theorem State.answerFreeWord_pv (r : Nat) : (s.answerFreeWord r).pv = s.pv := rfl
@[simp] theorem State.answerFreeWord_vok (r : Nat) : (s.answerFreeWord r).vok = s.vok := rfl
@[simp] theorem State.answerFreeWord_pay (r : Nat) : (s.answerFreeWord r).pay = s.pay := rfl
@[simp] theorem State.answerFreeWord_ph (r : Nat) : (s.answerFreeWord r).ph = s.ph := rfl
@[simp] theorem State.answerFreeWord_op (r : Nat) : (s.answerFreeWord r).op = s.op := rfl
@[simp] theorem State.answerFreeWord_idx (r : Nat) : (s.answerFreeWord r).idx = s.idx := rfl
@[simp] theorem State.answerFreeWord_hbuf (r : Nat) : (s.answerFreeWord r).hbuf = s.hbuf := rfl
@[simp] theorem State.answerFreeWord_cfg (r : Nat) : (s.answerFreeWord r).cfg = s.cfg := rfl
@[simp] theorem State.answerFreeWord_input (r : Nat) : (s.answerFreeWord r).input = s.input := rfl
@[simp] theorem State.answerFreeWord_actions (r : Nat) : (s.answerFreeWord r).actions = s.actions := rfl
@[simp] theorem State.answerFreeWord_emitted (r : Nat) : (s.answerFreeWord r).emitted = s.emitted ++ [.rdValue (Config.freeWord s.cfg.unit r s.draws)] := rfl
@[simp] theorem State.answerFreeWord_draws (r : Nat) : (s.answerFreeWord r).draws = s.draws + 1 := rfl

/-! ## `answerFreeByte` -/

@[simp] theorem State.answerFreeByte_h (i : Nat) : (s.answerFreeByte i).h = s.h := rfl
@[simp] theorem State.answerFreeByte_acc (i : Nat) : (s.answerFreeByte i).acc = s.acc := rfl
@[simp] theorem State.answerFreeByte_cnt (i : Nat) : (s.answerFreeByte i).cnt = s.cnt := rfl
@[simp] theorem State.answerFreeByte_err (i : Nat) : (s.answerFreeByte i).err = s.err := rfl
@[simp] theorem State.answerFreeByte_pv (i : Nat) : (s.answerFreeByte i).pv = s.pv := rfl
@[simp] theorem State.answerFreeByte_vok (i : Nat) : (s.answerFreeByte i).vok = s.vok := rfl
@[simp] theorem State.answerFreeByte_pay (i : Nat) : (s.answerFreeByte i).pay = s.pay := rfl
@[simp] theorem State.answerFreeByte_ph (i : Nat) : (s.answerFreeByte i).ph = s.ph := rfl
@[simp] theorem State.answerFreeByte_op (i : Nat) : (s.answerFreeByte i).op = s.op := rfl
@[simp] theorem State.answerFreeByte_idx (i : Nat) : (s.answerFreeByte i).idx = s.idx := rfl
@[simp] theorem State.answerFreeByte_hbuf (i : Nat) : (s.answerFreeByte i).hbuf = s.hbuf := rfl
@[simp] theorem State.answerFreeByte_cfg (i : Nat) : (s.answerFreeByte i).cfg = s.cfg := rfl
@[simp] theorem State.answerFreeByte_input (i : Nat) : (s.answerFreeByte i).input = s.input := rfl
@[simp] theorem State.answerFreeByte_actions (i : Nat) : (s.answerFreeByte i).actions = s.actions := rfl
@[simp] theorem State.answerFreeByte_emitted (i : Nat) : (s.answerFreeByte i).emitted = s.emitted ++ [.rdpValue (Config.freeByte s.cfg.unit i s.draws)] := rfl
@[simp] theorem State.answerFreeByte_draws (i : Nat) : (s.answerFreeByte i).draws = s.draws + 1 := rfl

/-! ## `enterRun` -/

@[simp] theorem State.enterRun_h : (s.enterRun).h = s.h := rfl
@[simp] theorem State.enterRun_acc : (s.enterRun).acc = s.acc := rfl
@[simp] theorem State.enterRun_cnt : (s.enterRun).cnt = s.cnt := rfl
@[simp] theorem State.enterRun_err : (s.enterRun).err = s.err := rfl
@[simp] theorem State.enterRun_pv : (s.enterRun).pv = s.pv := rfl
@[simp] theorem State.enterRun_vok : (s.enterRun).vok = s.vok := rfl
@[simp] theorem State.enterRun_pay : (s.enterRun).pay = s.pay := rfl
@[simp] theorem State.enterRun_ph : (s.enterRun).ph = .run := rfl
@[simp] theorem State.enterRun_op : (s.enterRun).op = s.op := rfl
@[simp] theorem State.enterRun_idx : (s.enterRun).idx = s.idx := rfl
@[simp] theorem State.enterRun_hbuf : (s.enterRun).hbuf = s.hbuf := rfl
@[simp] theorem State.enterRun_cfg : (s.enterRun).cfg = s.cfg := rfl
@[simp] theorem State.enterRun_input : (s.enterRun).input = s.input := rfl
@[simp] theorem State.enterRun_actions : (s.enterRun).actions = s.actions := rfl
@[simp] theorem State.enterRun_emitted : (s.enterRun).emitted = s.emitted := rfl
@[simp] theorem State.enterRun_draws : (s.enterRun).draws = s.draws := rfl

/-! ## `stageByte` -/

@[simp] theorem State.stageByte_h (b : Byte) : (s.stageByte b).h = s.h := rfl
@[simp] theorem State.stageByte_acc (b : Byte) : (s.stageByte b).acc = s.acc := rfl
@[simp] theorem State.stageByte_cnt (b : Byte) : (s.stageByte b).cnt = s.cnt := rfl
@[simp] theorem State.stageByte_err (b : Byte) : (s.stageByte b).err = s.err := rfl
@[simp] theorem State.stageByte_pv (b : Byte) : (s.stageByte b).pv = s.pv := rfl
@[simp] theorem State.stageByte_vok (b : Byte) : (s.stageByte b).vok = s.vok := rfl
@[simp] theorem State.stageByte_pay (b : Byte) : (s.stageByte b).pay = s.pay := rfl
@[simp] theorem State.stageByte_ph (b : Byte) : (s.stageByte b).ph = s.ph := rfl
@[simp] theorem State.stageByte_op (b : Byte) : (s.stageByte b).op = s.op := rfl
@[simp] theorem State.stageByte_idx (b : Byte) : (s.stageByte b).idx = s.idx + 1 := rfl
@[simp] theorem State.stageByte_hbuf (b : Byte) : (s.stageByte b).hbuf = s.hbuf.write s.idx b := rfl
@[simp] theorem State.stageByte_cfg (b : Byte) : (s.stageByte b).cfg = s.cfg := rfl
@[simp] theorem State.stageByte_input (b : Byte) : (s.stageByte b).input = s.input := rfl
@[simp] theorem State.stageByte_actions (b : Byte) : (s.stageByte b).actions = s.actions := rfl
@[simp] theorem State.stageByte_emitted (b : Byte) : (s.stageByte b).emitted = s.emitted := rfl
@[simp] theorem State.stageByte_draws (b : Byte) : (s.stageByte b).draws = s.draws := rfl

/-! ## `arch` -/

@[simp] theorem State.arch_h : (s.arch).h = s.h := rfl
@[simp] theorem State.arch_acc : (s.arch).acc = s.acc := rfl
@[simp] theorem State.arch_cnt : (s.arch).cnt = s.cnt := rfl
@[simp] theorem State.arch_err : (s.arch).err = s.err := rfl
@[simp] theorem State.arch_pv : (s.arch).pv = s.pv := rfl
@[simp] theorem State.arch_vok : (s.arch).vok = s.vok := rfl
@[simp] theorem State.arch_pay : (s.arch).pay = s.pay := rfl
@[simp] theorem State.arch_ph : (s.arch).ph = s.ph := rfl
@[simp] theorem State.arch_op : (s.arch).op = 0#3 := rfl
@[simp] theorem State.arch_idx : (s.arch).idx = 0 := rfl
@[simp] theorem State.arch_hbuf : (s.arch).hbuf = [] := rfl
@[simp] theorem State.arch_cfg : (s.arch).cfg = s.cfg := rfl
@[simp] theorem State.arch_input : (s.arch).input = [] := rfl
@[simp] theorem State.arch_actions : (s.arch).actions = s.actions := rfl
@[simp] theorem State.arch_emitted : (s.arch).emitted = s.emitted := rfl
@[simp] theorem State.arch_draws : (s.arch).draws = s.draws := rfl

/-! ## `payStore`: a sequence of `payWrite`, so only `PAY` changes -/

@[simp] theorem State.payStore_h (i : Nat) (bs : ByteSeq) : (s.payStore i bs).h = s.h := by
  induction bs generalizing s i with
  | nil => rfl
  | cons b bs ih => simp [State.payStore, ih]
@[simp] theorem State.payStore_acc (i : Nat) (bs : ByteSeq) : (s.payStore i bs).acc = s.acc := by
  induction bs generalizing s i with
  | nil => rfl
  | cons b bs ih => simp [State.payStore, ih]
@[simp] theorem State.payStore_cnt (i : Nat) (bs : ByteSeq) : (s.payStore i bs).cnt = s.cnt := by
  induction bs generalizing s i with
  | nil => rfl
  | cons b bs ih => simp [State.payStore, ih]
@[simp] theorem State.payStore_err (i : Nat) (bs : ByteSeq) : (s.payStore i bs).err = s.err := by
  induction bs generalizing s i with
  | nil => rfl
  | cons b bs ih => simp [State.payStore, ih]
@[simp] theorem State.payStore_pv (i : Nat) (bs : ByteSeq) : (s.payStore i bs).pv = s.pv := by
  induction bs generalizing s i with
  | nil => rfl
  | cons b bs ih => simp [State.payStore, ih]
@[simp] theorem State.payStore_vok (i : Nat) (bs : ByteSeq) : (s.payStore i bs).vok = s.vok := by
  induction bs generalizing s i with
  | nil => rfl
  | cons b bs ih => simp [State.payStore, ih]
@[simp] theorem State.payStore_ph (i : Nat) (bs : ByteSeq) : (s.payStore i bs).ph = s.ph := by
  induction bs generalizing s i with
  | nil => rfl
  | cons b bs ih => simp [State.payStore, ih]
@[simp] theorem State.payStore_op (i : Nat) (bs : ByteSeq) : (s.payStore i bs).op = s.op := by
  induction bs generalizing s i with
  | nil => rfl
  | cons b bs ih => simp [State.payStore, ih]
@[simp] theorem State.payStore_idx (i : Nat) (bs : ByteSeq) : (s.payStore i bs).idx = s.idx := by
  induction bs generalizing s i with
  | nil => rfl
  | cons b bs ih => simp [State.payStore, ih]
@[simp] theorem State.payStore_hbuf (i : Nat) (bs : ByteSeq) : (s.payStore i bs).hbuf = s.hbuf := by
  induction bs generalizing s i with
  | nil => rfl
  | cons b bs ih => simp [State.payStore, ih]
@[simp] theorem State.payStore_cfg (i : Nat) (bs : ByteSeq) : (s.payStore i bs).cfg = s.cfg := by
  induction bs generalizing s i with
  | nil => rfl
  | cons b bs ih => simp [State.payStore, ih]
@[simp] theorem State.payStore_input (i : Nat) (bs : ByteSeq) : (s.payStore i bs).input = s.input := by
  induction bs generalizing s i with
  | nil => rfl
  | cons b bs ih => simp [State.payStore, ih]
@[simp] theorem State.payStore_actions (i : Nat) (bs : ByteSeq) : (s.payStore i bs).actions = s.actions := by
  induction bs generalizing s i with
  | nil => rfl
  | cons b bs ih => simp [State.payStore, ih]
@[simp] theorem State.payStore_emitted (i : Nat) (bs : ByteSeq) : (s.payStore i bs).emitted = s.emitted := by
  induction bs generalizing s i with
  | nil => rfl
  | cons b bs ih => simp [State.payStore, ih]
@[simp] theorem State.payStore_draws (i : Nat) (bs : ByteSeq) : (s.payStore i bs).draws = s.draws := by
  induction bs generalizing s i with
  | nil => rfl
  | cons b bs ih => simp [State.payStore, ih]

/-! ## The state after reset -/

@[simp] theorem State.reset_ph : State.reset.ph = .idle := rfl
@[simp] theorem State.reset_pv : State.reset.pv = false := rfl
@[simp] theorem State.reset_pay : State.reset.pay = [] := rfl
@[simp] theorem State.reset_hbuf : State.reset.hbuf = [] := rfl
@[simp] theorem State.reset_pcap : State.reset.cfg.pcap = 0xFFFFFFFF#32 := rfl

end Sys2Proof.Machine
end

