-- ==== Sys2Proof/Laws/Accumulator.lean ====
section
/-! SUPPORT. The checksum accumulator: one byte more, and the counter's range. -/

namespace Sys2Proof.Machine

@[simp] theorem checksum_nil : checksum [] = 0#32 := rfl

/-- The checksum of one byte more (R82's induction step). -/
theorem checksum_concat (bs : ByteSeq) (b : Byte) : checksum (bs ++ [b]) = checksum bs + b.setWidth 32 := by
  apply BitVec.eq_of_toNat_eq
  simp [checksum, BitVec.toNat_add, Nat.mod_eq_of_lt (show b.toNat < 4294967296 by have := b.isLt; omega)]

@[simp] theorem satCount_toNat (n : Nat) : (satCount n).toNat = min n (2 ^ 32) := by
  simp only [satCount, BitVec.toNat_ofNat]
  omega

theorem satInc_toNat (c : BitVec 33) : (satInc c).toNat = min (c.toNat + 1) (2 ^ 32) := by
  have := c.isLt
  simp only [satInc]
  split_ifs with h
  · simp only [BitVec.toNat_add, BitVec.toNat_ofNat]
    omega
  · simp only [BitVec.toNat_ofNat]
    omega

/-- Counting one byte more (R13). -/
theorem satInc_satCount (n : Nat) : satInc (satCount n) = satCount (n + 1) := by
  apply BitVec.eq_of_toNat_eq
  rw [satInc_toNat, satCount_toNat, satCount_toNat]
  omega

/-- Below 2^32 the counter counts exactly. -/
theorem satInc_below (c : BitVec 33) (h : c.toNat < 2 ^ 32) : satInc c = c + 1#33 := if_pos h

theorem satCount_below {n : Nat} (h : n ≤ 2 ^ 32) : satCount n = BitVec.ofNat 33 n := by
  simp [satCount, show min n 4294967296 = n by omega]

end Sys2Proof.Machine
end

