-- ==== Sys2Proof/Laws/Buffer.lean ====
section
/-! SUPPORT. Byte buffers: read after write, the canonical form, and buffers filled from index 0. -/

namespace Sys2Proof.Machine

/-! ## Read after write -/

@[simp] theorem Memory.read_nil (i : Nat) : Memory.read [] i = none := rfl

theorem Memory.read_write (m : Memory) (i j : Nat) (b : Byte) :
    (m.write i b).read j = if j = i then some b else m.read j := by
  induction m with
  | nil => simp [Memory.write, Memory.read, eq_comm]
  | cons c m ih =>
    obtain ⟨k, c⟩ := c
    simp only [Memory.write]
    split_ifs with h₁ h₂ <;> simp only [Memory.read, ih] <;> grind

@[simp] theorem Memory.read_write_same (m : Memory) (i : Nat) (b : Byte) : (m.write i b).read i = some b := by
  simp [Memory.read_write]

theorem Memory.read_write_other (m : Memory) {i j : Nat} (b : Byte) (h : j ≠ i) :
    (m.write i b).read j = m.read j := by
  simp [Memory.read_write, h]

/-! ## The canonical form -/

theorem Memory.mem_write {m : Memory} {i : Nat} {b : Byte} {c : Host.Cell} (h : c ∈ m.write i b) :
    c = (i, b) ∨ c ∈ m := by
  induction m with
  | nil => simpa [Memory.write] using h
  | cons d m ih =>
    obtain ⟨k, d⟩ := d
    simp only [Memory.write] at h
    split_ifs at h <;> simp only [List.mem_cons] at h ⊢ <;> tauto

theorem Memory.wf_nil : Memory.wf [] := List.Pairwise.nil

theorem Memory.wf_cons {k : Nat} {c : Byte} {m : Memory} :
    Memory.wf ((k, c) :: m) ↔ (∀ d ∈ m, k < d.1) ∧ m.wf := by
  simp [Memory.wf, List.pairwise_cons]

/-- A write keeps the canonical form. -/
theorem Memory.wf_write {m : Memory} (h : m.wf) (i : Nat) (b : Byte) : (m.write i b).wf := by
  induction m with
  | nil => simp [Memory.write, Memory.wf]
  | cons c m ih =>
    obtain ⟨k, c⟩ := c
    obtain ⟨hk, hm⟩ := Memory.wf_cons.1 h
    simp only [Memory.write]
    split_ifs with h₁ h₂
    · refine Memory.wf_cons.2 ⟨?_, h⟩
      rintro d hd
      obtain rfl | hd := List.mem_cons.1 hd
      · exact h₁
      · exact h₁.trans (hk d hd)
    · exact Memory.wf_cons.2 ⟨h₂ ▸ hk, hm⟩
    · refine Memory.wf_cons.2 ⟨fun d hd => ?_, ih hm⟩
      obtain rfl | hd := Memory.mem_write hd
      · exact show k < i by omega
      · exact hk d hd

theorem State.payWrite_wf (s : State) (i : Nat) (b : Byte) (h : s.pay.wf) : (s.payWrite i b).pay.wf := by
  simp only [State.payWrite_pay]
  split_ifs
  · exact Memory.wf_write h i b
  · exact h

theorem State.payStore_wf (s : State) (i : Nat) (bs : ByteSeq) (h : s.pay.wf) : (s.payStore i bs).pay.wf := by
  induction bs generalizing s i with
  | nil => exact h
  | cons b bs ih => exact ih _ _ (s.payWrite_wf i b h)

/-! ## Buffers filled from index 0 -/

/-- A write behind the last index appends. -/
theorem Memory.write_append {m : Memory} {i : Nat} (b : Byte) (h : ∀ c ∈ m, c.1 < i) :
    m.write i b = m ++ [(i, b)] := by
  induction m with
  | nil => rfl
  | cons c m ih =>
    obtain ⟨k, c⟩ := c
    have hk : k < i := h (k, c) (by simp)
    simp [Memory.write, show ¬ i < k by omega, show i ≠ k by omega, ih fun d hd => h d (by simp [hd])]

theorem Memory.write_filled {m : Memory} {n : Nat} (b : Byte) (h : m.map Prod.fst = List.range n) :
    m.write n b = m ++ [(n, b)] := by
  refine Memory.write_append b fun c hc => ?_
  have : c.1 ∈ List.range n := h ▸ List.mem_map_of_mem hc
  simpa using this

theorem Memory.filled_write {m : Memory} {n : Nat} (b : Byte) (h : m.map Prod.fst = List.range n) :
    (m.write n b).map Prod.fst = List.range (n + 1) ∧ (m.write n b).map Prod.snd = m.map Prod.snd ++ [b] := by
  simp [Memory.write_filled b h, h, List.range_succ]

theorem Memory.filled_wf {m : Memory} {n : Nat} (h : m.map Prod.fst = List.range n) : m.wf := by
  simpa [Memory.wf, h] using List.pairwise_lt_range

/-- The buffer with the bytes of `bs` at indices 0, 1, and so on. -/
theorem Memory.zip_filled (bs : ByteSeq) :
    ((List.range bs.length).zip bs).map Prod.fst = List.range bs.length ∧
      ((List.range bs.length).zip bs).map Prod.snd = bs := by
  constructor
  · exact List.map_fst_zip (by simp)
  · exact List.map_snd_zip (by simp)

/-- A filled buffer is its bytes with their indices. -/
theorem Memory.filled_eq {m : Memory} {n : Nat} (h : m.map Prod.fst = List.range n) :
    m = (List.range n).zip (m.map Prod.snd) := by
  rw [← h]
  exact List.zip_of_prod rfl rfl

/-- Storing into `PAY`, within its capacity, behind what is filled. -/
theorem State.payStore_filled (s : State) (bs : ByteSeq) {n : Nat} (h : s.pay.map Prod.fst = List.range n)
    (fits : n + bs.length ≤ s.cfg.pcap.toNat) :
    (s.payStore n bs).pay.map Prod.fst = List.range (n + bs.length) ∧
      (s.payStore n bs).pay.map Prod.snd = s.pay.map Prod.snd ++ bs := by
  induction bs generalizing s n with
  | nil => simp [State.payStore, h]
  | cons b bs ih =>
    simp only [List.length_cons] at fits
    have hw := Memory.filled_write b h
    have hp : (s.payWrite n b).pay = s.pay.write n b := by
      simp [show n < s.cfg.pcap.toNat by omega]
    have := ih (s.payWrite n b) (n := n + 1) (by rw [hp]; exact hw.1) (by simp; omega)
    rw [State.payStore, this.1, this.2, hp, hw.2]
    simp [show n + 1 + bs.length = n + (bs.length + 1) by omega]

/-- Storing into an empty `PAY`, within its capacity. -/
theorem State.payStore_empty (s : State) (bs : ByteSeq) (h : s.pay = []) (fits : bs.length ≤ s.cfg.pcap.toNat) :
    (s.payStore 0 bs).pay = (List.range bs.length).zip bs := by
  have := s.payStore_filled bs (n := 0) (by simp [h]) (by simpa using fits)
  simp only [Nat.zero_add, h, List.map_nil, List.nil_append] at this
  rw [Memory.filled_eq this.1, this.2]

/-! ## Reading a range -/

theorem Memory.readRange_some {m : Memory} {i n : Nat} {bs : ByteSeq} :
    m.readRange i n = some bs ↔ bs.length = n ∧ ∀ k < n, m.read (i + k) = bs[k]? := by
  induction n generalizing i bs with
  | zero => cases bs <;> simp [Memory.readRange]
  | succ n ih =>
    cases bs with
    | nil =>
      simp only [Memory.readRange, List.length_nil]
      split <;> simp
    | cons b bs =>
      have split_first : (∀ k < n + 1, m.read (i + k) = (b :: bs)[k]?) ↔
          m.read i = some b ∧ ∀ k < n, m.read (i + 1 + k) = bs[k]? := by
        constructor
        · intro h
          refine ⟨by simpa using h 0 (by omega), fun k hk => ?_⟩
          have := h (k + 1) (by omega)
          simpa [show i + (k + 1) = i + 1 + k by omega] using this
        · rintro ⟨h₀, h⟩ k hk
          cases k with
          | zero => simpa using h₀
          | succ k => simpa [show i + (k + 1) = i + 1 + k by omega] using h k (by omega)
      rw [split_first, List.length_cons, Nat.add_right_cancel_iff]
      simp only [Memory.readRange]
      constructor
      · intro h
        split at h
        · rename_i c cs hc hcs
          obtain ⟨rfl, rfl⟩ : c = b ∧ cs = bs := by simpa using h
          exact ⟨(ih.1 hcs).1, hc, (ih.1 hcs).2⟩
        · simp at h
      · rintro ⟨hl, h₀, h⟩
        rw [h₀, ih.2 ⟨hl, h⟩]

theorem Memory.readRange_isSome {m : Memory} {i n : Nat} (h : ∀ k < n, (m.read (i + k)).isSome) :
    ∃ bs, m.readRange i n = some bs := by
  induction n generalizing i with
  | zero => exact ⟨[], rfl⟩
  | succ n ih =>
    obtain ⟨b, hb⟩ := Option.isSome_iff_exists.1 (h 0 (by omega))
    obtain ⟨bs, hbs⟩ := ih (i := i + 1) fun k hk => by
      simpa [show i + 1 + k = i + (k + 1) by omega] using h (k + 1) (by omega)
    exact ⟨b :: bs, by simp [Memory.readRange, show m.read i = some b from hb, hbs]⟩

theorem Memory.read_append_left {m n : Memory} {i : Nat} (h : ∀ c ∈ m, c.1 ≠ i) :
    (m ++ n).read i = Memory.read n i := by
  induction m with
  | nil => rfl
  | cons c m ih =>
    obtain ⟨k, c⟩ := c
    have hk : k ≠ i := h (k, c) (by simp)
    simp [Memory.read, hk, ih fun d hd => h d (by simp [hd])]

theorem Memory.read_range_zip (bs : ByteSeq) (i n k : Nat) (hn : n = bs.length) (hk : k < n) :
    Memory.read ((List.range' i n).zip bs) (i + k) = bs[k]? := by
  induction bs generalizing i n k with
  | nil => simp at hn; omega
  | cons b bs ih =>
    subst hn
    simp only [List.length_cons, List.range'_succ, List.zip_cons_cons, Memory.read]
    cases k with
    | zero => simp
    | succ k =>
      rw [if_neg (by omega), show i + (k + 1) = i + 1 + k by omega]
      simpa using ih (i + 1) bs.length k rfl (by simpa using hk)

/-- A filled buffer reads back as its bytes. -/
theorem Memory.readRange_filled {m : Memory} {n : Nat} (h : m.map Prod.fst = List.range n) :
    m.readRange 0 n = some (m.map Prod.snd) := by
  have hl : (m.map Prod.snd).length = n := by
    simpa using congrArg List.length h
  refine Memory.readRange_some.2 ⟨hl, fun k hk => ?_⟩
  conv_lhs => rw [Memory.filled_eq h]
  simpa [List.range_eq_range'] using Memory.read_range_zip (m.map Prod.snd) 0 n k hl.symm hk

theorem Memory.read_filled {m : Memory} {n k : Nat} (h : m.map Prod.fst = List.range n) (hk : k < n) :
    m.read k = (m.map Prod.snd)[k]? := by
  simpa using (Memory.readRange_some.1 (Memory.readRange_filled h)).2 k hk

/-- What is read from a range is what was read byte by byte, extended by one write behind it. -/
theorem Memory.readRange_write {m : Memory} {n : Nat} {bs : ByteSeq} (b : Byte)
    (h : m.readRange 0 n = some bs) : (m.write n b).readRange 0 (n + 1) = some (bs ++ [b]) := by
  obtain ⟨hl, hr⟩ := Memory.readRange_some.1 h
  refine Memory.readRange_some.2 ⟨by simp [hl], fun k hk => ?_⟩
  rw [Memory.read_write]
  split_ifs with he
  · simp [show k = bs.length by omega]
  · rw [hr k (by omega), List.getElem?_append_left (by omega)]

end Sys2Proof.Machine
end

