-- ==== Sys2Proof/Laws/Wire.lean ====
section
/-! SUPPORT. Lengths and parts of the wire format; little-endian arithmetic. -/

namespace Sys2Proof.Machine

@[simp] theorem toLe_length (n : Nat) (v : BitVec w) : (toLe n v).length = n := by simp [toLe]

@[simp] theorem hdrPack_length (h : Header) : (hdrPack h).length = 21 := by simp [hdrPack]

@[simp] theorem pktPack_length (h : Header) (p : ByteSeq) : (pktPack h p).length = 21 + p.length := by
  simp [pktPack]

theorem slice_length (s : ByteSeq) (a b : Nat) (h : b < s.length) : (slice s a b).length = b + 1 - a := by
  simp [slice]; omega

/-- The first 21 bytes of an input of at least that length. -/
theorem slice_header (s : ByteSeq) : slice s 0 20 = s.take 21 := by simp [slice]

/-- A sum of little-endian bytes fits into as many bytes. -/
theorem leSum_lt (b : ByteSeq) : leSum b < 2 ^ (8 * b.length) := by
  induction b with
  | nil => simp [leSum]
  | cons c b ih =>
    have hc := c.isLt
    rw [leSum, List.length_cons, show 8 * (b.length + 1) = 8 + 8 * b.length by ring, pow_add]
    nlinarith

theorem toLe_succ (n : Nat) (v : BitVec w) : toLe (n + 1) v = v.extractLsb' 0 8 :: toLe n (v >>> 8) := by
  simp only [toLe, List.range_succ_eq_map, List.map_cons, List.map_map, Nat.mul_zero, List.cons.injEq, true_and]
  refine List.map_congr_left fun k _ => ?_
  ext i hi
  simp [show 8 * (k + 1) + i = 8 + (8 * k + i) by ring]

/-- `le_N` then the sum gives the value's low bytes. -/
theorem leSum_toLe (n : Nat) (v : BitVec w) : leSum (toLe n v) = v.toNat % 2 ^ (8 * n) := by
  induction n generalizing v with
  | zero => simp [toLe, leSum, Nat.mod_one]
  | succ n ih =>
    rw [toLe_succ, leSum, ih]
    simp only [BitVec.extractLsb'_toNat, BitVec.toNat_ushiftRight, Nat.shiftRight_eq_div_pow]
    rw [show 8 * (n + 1) = 8 + 8 * n by ring, pow_add, Nat.mod_mul, pow_zero, Nat.div_one]

/-- The first byte of a little-endian value is its value modulo 2^8, and the rest is the quotient. -/
theorem toLe_leSum (b : ByteSeq) {w : Nat} (hw : 8 * b.length ≤ w) :
    toLe b.length (BitVec.ofNat w (leSum b)) = b := by
  induction b with
  | nil => rfl
  | cons c b ih =>
    simp only [List.length_cons] at hw
    have hlt := leSum_lt (c :: b)
    have hlb := leSum_lt b
    have hpow : 2 ^ (8 * (c :: b).length) ≤ 2 ^ w := Nat.pow_le_pow_right (by omega) (by simpa using hw)
    have hpow' : 2 ^ (8 * b.length) ≤ 2 ^ w := Nat.pow_le_pow_right (by omega) (by omega)
    have hc := c.isLt
    rw [List.length_cons, toLe_succ]
    congr 1
    · apply BitVec.eq_of_toNat_eq
      simp only [BitVec.extractLsb'_toNat, BitVec.toNat_ofNat, Nat.mod_eq_of_lt (hlt.trans_le hpow)]
      simp only [leSum, Nat.shiftRight_zero]
      omega
    · have rest : BitVec.ofNat w (leSum (c :: b)) >>> 8 = BitVec.ofNat w (leSum b) := by
        apply BitVec.eq_of_toNat_eq
        simp only [BitVec.toNat_ushiftRight, BitVec.toNat_ofNat, Nat.mod_eq_of_lt (hlt.trans_le hpow),
          Nat.mod_eq_of_lt (hlb.trans_le hpow'), Nat.shiftRight_eq_div_pow]
        rw [leSum]
        omega
      rw [rest, ih (by omega)]

end Sys2Proof.Machine
end

