-- ==== Sys2Proof/Laws/Ops.lean ====
section
/-! SUPPORT. What the shared operations can do, said once: starting a command, the output stream, the payload. -/

namespace Sys2Proof.Machine

@[simp] theorem whenIdle_idle {s : State} (h : s.ph = .idle) (r : Host.Outcome State Fault Refusal) :
    whenIdle s r = r := by simp [whenIdle, h]

@[simp] theorem whenIdle_run {s : State} (h : s.ph = .run) (r : Host.Outcome State Fault Refusal) :
    whenIdle s r = .refused .startWhileBusy := by simp [whenIdle, h]

/-- A command that answers a next state was started while `PH = IDLE`. -/
theorem whenIdle_next {s t : State} {r : Host.Outcome State Fault Refusal} (h : whenIdle s r = .next t) :
    s.ph = .idle ∧ r = .next t := by
  cases hp : s.ph with
  | idle => exact ⟨rfl, by simpa [hp] using h⟩
  | run => simp [hp] at h

/-- `OUT` event by event is the output sequence at once. -/
theorem State.outBytes_eq (s : State) (bs : ByteSeq) :
    s.outBytes bs = { s with emitted := s.emitted ++ bs.map .out } := by
  induction bs generalizing s with
  | nil => simp [State.outBytes]
  | cons b bs ih => simp [State.outBytes, ih, State.emitEvent]

/-- Emitting the payload byte by byte is reading it and emitting it at once. -/
theorem State.outPayload_eq (s : State) (i n : Nat) :
    s.outPayload i n = (s.pay.readRange i n).map fun bs => { s with emitted := s.emitted ++ bs.map .out } := by
  induction n generalizing s i with
  | zero => simp [State.outPayload, Memory.readRange]
  | succ n ih =>
    simp only [State.outPayload, Memory.readRange]
    cases s.pay.read i with
    | none => rfl
    | some b =>
      simp only [ih, State.emitEvent]
      cases s.pay.readRange (i + 1) n <;> simp

/-- Absorbing the payload byte by byte is reading it and absorbing it. -/
theorem State.absorbPayload_eq (s : State) (i n : Nat) :
    s.absorbPayload i n = (s.pay.readRange i n).map fun bs => bs.foldl State.absorb s := by
  induction n generalizing s i with
  | zero => simp [State.absorbPayload, Memory.readRange]
  | succ n ih =>
    simp only [State.absorbPayload, Memory.readRange]
    cases s.pay.read i with
    | none => rfl
    | some b =>
      simp only [ih, State.absorb_pay]
      cases s.pay.readRange (i + 1) n <;> rfl

/-- The payload of a slot whose bytes are all there. -/
theorem State.payload_filled {s : State} (h : s.pay.map Prod.fst = List.range s.h.payloadSize.toNat) :
    s.payload = some (s.pay.map Prod.snd) := Memory.readRange_filled h

theorem State.payload_length {s : State} {p : ByteSeq} (h : s.payload = some p) :
    p.length = s.h.payloadSize.toNat := (Memory.readRange_some.1 h).1

/-- Of an 8-bit register number the register port knows the first eight. -/
theorem State.readRegister_absent (s : State) {r : Nat} (h : 8 ≤ r) : s.readRegister r = 0#64 := by
  unfold State.readRegister
  split <;> first | omega | rfl

theorem State.writeRegister_readOnly (s : State) {r : Nat} (h : 5 ≤ r) (v : BitVec 64) :
    s.writeRegister r v = s := by
  unfold State.writeRegister
  split <;> first | omega | rfl

end Sys2Proof.Machine
end

