-- ==== Sys2Proof/Laws/Actions.lean ====
section
/-! SUPPORT. Inversion: all that a host action can have done when it answers a next state, said once per
action, so that a rule of the whole machine is a short case analysis. -/

namespace Sys2Proof.Machine

/-- The count of PKT.DEC and `H.PSZ` compared as natural numbers (R98). -/
theorem cnt_eq_payloadSize (c : BitVec 33) (p : BitVec 32) : c = p.setWidth 33 ↔ c.toNat = p.toNat := by
  constructor
  · rintro rfl
    simp
    omega
  · intro h
    apply BitVec.eq_of_toNat_eq
    simp
    omega

/-- What a command can have done at the command level. -/
theorem exec_next {i : Instr} {s t : State} (h : exec i s = .next t) : s.ph = .idle ∧
    match i with
    | .hdrEnc => t = (s.emitOutput (hdrPack s.h)).complete .ok
    | .hdrDec =>
      (s.input.length < 21 ∧ t = s.takeInput.raiseError .insufficientBytes) ∨
      (21 ≤ s.input.length ∧
        t = ((s.takeInput.loadHeader (hdrUnpack (slice s.input 0 20))).dropPacket).complete .ok)
    | .pktNew => s.input.length ≤ s.cfg.pcap.toNat ∧
      t = State.complete (c := .ok) (State.holdPacket
        { s.dropPacket.takeInput.payStore 0 s.input with
          h := { s.h with payloadSize := BitVec.ofNat 32 s.input.length, checksum := checksum s.input }
          acc := checksum s.input
          cnt := BitVec.ofNat 33 s.input.length })
    | .pktEnc =>
      (s.pv = true ∧ ∃ p, s.payload = some p ∧ t = (s.emitOutput (pktPack s.h p)).complete .ok) ∨
      (s.pv = false ∧ t = s.raiseError .illegalCommand)
    | .pktDec =>
      (s.input.length < 21 ∧ t = s.takeInput.dropPacket.clearSums.raiseError .insufficientBytes) ∨
      (21 ≤ s.input.length ∧ ∃ u,
        u = { s.takeInput.dropPacket.loadHeader (hdrUnpack (slice s.input 0 20)) with
          acc := checksum (s.input.drop 21), cnt := satCount (s.input.drop 21).length } ∧
        (((s.input.drop 21).length ≠ u.h.payloadSize.toNat ∧ t = u.raiseError .payloadSizeMismatch) ∨
          ((s.input.drop 21).length = u.h.payloadSize.toNat ∧ (s.input.drop 21).length ≤ s.cfg.pcap.toNat ∧
            t = (u.payStore 0 (s.input.drop 21)).holdPacket.complete .ok)))
    | .csum =>
      t = State.complete (c := .ok) { s.takeInput with acc := checksum s.input, cnt := satCount s.input.length }
    | .pktVfy =>
      (s.pv = true ∧ ∃ p, s.payload = some p ∧
        t = State.complete (c := .ok) { s with
          acc := checksum p
          cnt := s.h.payloadSize.setWidth 33
          vok := decide (checksum p = s.h.checksum) }) ∨
      (s.pv = false ∧ t = s.raiseError .illegalCommand) := by
  cases i
  all_goals simp only [exec, execHdrEnc, execHdrDec, execPktNew, execPktEnc, execPktDec, execCsum, execPktVfy] at h
  all_goals obtain ⟨hi, h⟩ := whenIdle_next h
  all_goals refine ⟨hi, ?_⟩
  case hdrEnc => simpa using h.symm
  case hdrDec => split at h <;> simp at h <;> subst h <;> simp_all
  case pktNew => split at h <;> simp at h; subst h; simp_all
  case pktEnc =>
    split at h
    · split at h <;> simp at h
      exact .inl ⟨by assumption, _, by assumption, h.symm⟩
    · simp at h
      exact .inr ⟨by simp_all, h.symm⟩
  case pktDec =>
    split at h
    · simp at h
      left
      simp_all
    · rename_i hl
      simp only [hdrLen_eq] at hl h
      refine .inr ⟨by omega, _, rfl, ?_⟩
      split at h
      · simp only [Host.Outcome.next.injEq] at h
        exact .inl ⟨by assumption, h.symm⟩
      · split at h <;> simp only [Host.Outcome.next.injEq, reduceCtorEq] at h
        exact .inr ⟨by simp_all, by assumption, h.symm⟩
  case csum => simpa using h.symm
  case pktVfy =>
    split at h
    · split at h <;> simp at h
      exact .inl ⟨by assumption, _, by assumption, h.symm⟩
    · simp at h
      exact .inr ⟨by simp_all, h.symm⟩

/-- What a command line can have done. -/
theorem command_next {cw : Byte} {input : ByteSeq} {s t : State}
    (h : perform (.command cw input) s = .next t) : s.ph = .idle ∧
    ((∃ i, decode cw = .ok i ∧ (i.takesInput = true ∨ input = []) ∧ exec i { s with input := input } = .next t) ∨
      (∃ e, decode cw = .error e ∧ input = [] ∧ t = s.raiseError .illegalCommand)) := by
  simp only [perform, commandAction] at h
  cases hd : decode cw with
  | error e =>
    simp [hd] at h
    obtain ⟨h1, h2⟩ := whenIdle_next h
    split at h2 <;> simp at h2
    exact ⟨h1, .inr ⟨e, rfl, by assumption, h2.symm⟩⟩
  | ok i =>
    simp [hd] at h
    split at h
    · rename_i hw
      exact ⟨(exec_next h).1, .inl ⟨i, rfl, hw, h⟩⟩
    · exact absurd (whenIdle_next h).2 (by simp)

/-- What a `START` can have done (R91, R100). -/
theorem start_next {cw : Byte} {s t : State} (h : perform (.start cw) s = .next t) : s.ph = .idle ∧
    ((∃ e, decode cw = .error e ∧ t = s.raiseError .illegalCommand) ∨
      ∃ i, decode cw = .ok i ∧ ∃ u, u = { s with op := opField cw } ∧
      match i with
      | .hdrEnc => t = ((u.outBytes (hdrPack u.h)).emitEvent .outEnd).complete .ok
      | .hdrDec => t = { u with idx := 0 }.enterRun
      | .pktNew => t = u.clearSums.dropPacket.enterRun
      | .pktEnc =>
        (s.pv = true ∧ ∃ p, s.payload = some p ∧
          t = (((u.outBytes (hdrPack u.h)).outBytes p).emitEvent .outEnd).complete .ok) ∨
        (s.pv = false ∧ t = u.raiseError .illegalCommand)
      | .pktDec => t = { u with idx := 0 }.clearSums.dropPacket.enterRun
      | .csum => t = u.clearSums.enterRun
      | .pktVfy =>
        (s.pv = true ∧ ∃ p v, s.payload = some p ∧ v = p.foldl State.absorb u.clearSums ∧
          t = { v with vok := decide (v.acc = v.h.checksum) }.complete .ok) ∨
        (s.pv = false ∧ t = u.raiseError .illegalCommand)) := by
  simp only [perform, startEvent] at h
  obtain ⟨hi, h⟩ := whenIdle_next h
  refine ⟨hi, ?_⟩
  cases hd : decode cw with
  | error e =>
    simp [hd] at h
    exact .inl ⟨e, rfl, h.symm⟩
  | ok i =>
    refine .inr ⟨i, rfl, _, rfl, ?_⟩
    cases i <;> simp only [hd, startHdrEnc, startHdrDec, startPktNew, startPktEnc, startPktDec, startCsum,
      startPktVfy] at h
    case pktEnc =>
      split at h
      · rename_i hp
        rw [State.outPayload_eq] at h
        refine .inl ⟨hp, ?_⟩
        simp only [State.outBytes_eq, State.payload] at h ⊢
        cases hq : s.pay.readRange 0 s.h.payloadSize.toNat with
        | none => simp [hq] at h
        | some p =>
          simp only [hq, Option.map_some, Host.Outcome.next.injEq] at h
          exact ⟨p, rfl, h.symm⟩
      · simp at h
        exact .inr ⟨by simp_all, h.symm⟩
    case pktVfy =>
      split at h
      · rename_i hp
        rw [State.absorbPayload_eq] at h
        refine .inl ⟨hp, ?_⟩
        simp only [State.payload, State.clearSums_pay] at h ⊢
        cases hq : s.pay.readRange 0 s.h.payloadSize.toNat with
        | none => simp [hq] at h
        | some p =>
          simp only [hq, Option.map_some, Host.Outcome.next.injEq] at h
          exact ⟨p, _, rfl, rfl, h.symm⟩
      · simp at h
        exact .inr ⟨by simp_all, h.symm⟩
    all_goals simpa using h.symm

/-- What a `BYTE` can have done (R93, R95, R97, R99). -/
theorem byte_next {b : Byte} {s t : State} (h : perform (.byte b) s = .next t) : s.ph = .run ∧
    ((s.op = 2#3 ∧
      ((s.idx < 20 ∧ t = s.stageByte b) ∨ (21 ≤ s.idx ∧ t = s) ∨
        (s.idx = 20 ∧ ∃ h, (s.stageByte b).stagedHeader = some h ∧ t = ((s.stageByte b).loadHeader h).dropPacket))) ∨
    (s.op = 3#3 ∧ s.cnt.toNat < s.cfg.pcap.toNat ∧ t = (s.payWrite s.cnt.toNat b).absorb b) ∨
    (s.op = 5#3 ∧
      ((s.idx < 20 ∧ t = s.stageByte b) ∨ (21 ≤ s.idx ∧ t = (s.payWrite s.cnt.toNat b).absorb b) ∨
        (s.idx = 20 ∧ ∃ h, (s.stageByte b).stagedHeader = some h ∧ t = (s.stageByte b).loadHeader h))) ∨
    (s.op = 6#3 ∧ t = s.absorb b)) := by
  simp only [perform, byteEvent] at h
  split at h
  · simp at h
  rename_i hi
  refine ⟨hi, ?_⟩
  split at h
  · rename_i ho
    refine .inl ⟨BitVec.eq_of_toNat_eq ho, ?_⟩
    simp only [byteHdrDec, hdrLen_eq] at h
    split at h
    · by_cases hx : s.idx + 1 = 21
      · rw [if_pos hx] at h
        split at h <;> simp only [Host.Outcome.next.injEq, reduceCtorEq] at h
        exact .inr (.inr ⟨by omega, _, by assumption, h.symm⟩)
      · rw [if_neg hx] at h
        simp only [Host.Outcome.next.injEq] at h
        exact .inl ⟨by omega, h.symm⟩
    · simp at h
      exact .inr (.inl ⟨by omega, h.symm⟩)
  · rename_i ho
    simp only [bytePktNew] at h
    split at h <;> simp at h
    exact .inr (.inl ⟨BitVec.eq_of_toNat_eq ho, by assumption, h.symm⟩)
  · rename_i ho
    refine .inr (.inr (.inl ⟨BitVec.eq_of_toNat_eq ho, ?_⟩))
    simp only [bytePktDec, hdrLen_eq] at h
    split at h
    · by_cases hx : s.idx + 1 = 21
      · rw [if_pos hx] at h
        split at h <;> simp only [Host.Outcome.next.injEq, reduceCtorEq] at h
        exact .inr (.inr ⟨by omega, _, by assumption, h.symm⟩)
      · rw [if_neg hx] at h
        simp only [Host.Outcome.next.injEq] at h
        exact .inl ⟨by omega, h.symm⟩
    · simp at h
      exact .inr (.inl ⟨by omega, h.symm⟩)
  · rename_i ho
    simp [byteCsum] at h
    exact .inr (.inr (.inr ⟨BitVec.eq_of_toNat_eq ho, h.symm⟩))
  · simp at h

/-- What an `END` can have done (R94, R96, R98, R99). -/
theorem endInput_next {s t : State} (h : perform .endInput s = .next t) : s.ph = .run ∧
    ((s.op = 2#3 ∧ t = s.complete (if s.idx < 21 then .insufficientBytes else .ok)) ∨
    (s.op = 3#3 ∧ t =
      { s with h := { s.h with payloadSize := s.cnt.setWidth 32, checksum := s.acc } }.holdPacket.complete .ok) ∨
    (s.op = 5#3 ∧
      ((s.idx < 21 ∧ t = s.forgetBytes.raiseError .insufficientBytes) ∨
        (21 ≤ s.idx ∧ s.cnt.toNat ≠ s.h.payloadSize.toNat ∧ t = s.forgetBytes.raiseError .payloadSizeMismatch) ∨
        (21 ≤ s.idx ∧ s.cnt.toNat = s.h.payloadSize.toNat ∧ s.cnt.toNat ≤ s.cfg.pcap.toNat ∧
          t = s.holdPacket.complete .ok))) ∨
    (s.op = 6#3 ∧ t = s.complete .ok)) := by
  simp only [perform, endEvent] at h
  split at h
  · simp at h
  rename_i hi
  refine ⟨hi, ?_⟩
  split at h
  · rename_i ho
    refine .inl ⟨BitVec.eq_of_toNat_eq ho, ?_⟩
    simp only [endHdrDec, hdrLen_eq] at h
    split_ifs at h ⊢ <;> simp only [Host.Outcome.next.injEq] at h <;> exact h.symm
  · rename_i ho
    simp [endPktNew] at h
    exact .inr (.inl ⟨BitVec.eq_of_toNat_eq ho, h.symm⟩)
  · rename_i ho
    refine .inr (.inr (.inl ⟨BitVec.eq_of_toNat_eq ho, ?_⟩))
    simp only [endPktDec, hdrLen_eq, ne_eq, cnt_eq_payloadSize] at h
    split_ifs at h with h1 h2 h3 <;> simp at h
    · exact .inl ⟨h1, h.symm⟩
    · exact .inr (.inr ⟨by omega, h2, h3, h.symm⟩)
    · exact .inr (.inl ⟨by omega, h2, h.symm⟩)
  · rename_i ho
    simp [endCsum] at h
    exact .inr (.inr (.inr ⟨BitVec.eq_of_toNat_eq ho, h.symm⟩))
  · simp at h

/-- What an `RD` can have done (R22, R105). -/
theorem rd_next {r : Nat} {s t : State} (h : perform (.rd r) s = .next t) :
    t = s.answerWord (s.readRegister r) ∨ (s.ph = .run ∧ r ≠ 7 ∧ t = s.answerFreeWord r) := by
  simp only [perform, readAction] at h
  split at h
  · simp at h
    exact .inl h.symm
  · split_ifs at h <;> simp at h
    · exact .inl h.symm
    · exact .inr ⟨by assumption, by assumption, h.symm⟩

/-- What a `WR` can have done (R22). -/
theorem wr_next {r : Nat} {v : BitVec 64} {s t : State} (h : perform (.wr r v) s = .next t) :
    s.ph = .idle ∧ ((5 ≤ r ∧ t = s) ∨ (r < 5 ∧ ∃ h, t = { s with h := h, pv := false, vok := false, pay := [] })) := by
  simp only [perform, writeAction] at h
  split at h <;> simp at h
  refine ⟨by assumption, ?_⟩
  by_cases hr : 5 ≤ r
  · rw [State.writeRegister_readOnly _ hr] at h
    exact .inl ⟨hr, h.symm⟩
  · have : r = 0 ∨ r = 1 ∨ r = 2 ∨ r = 3 ∨ r = 4 := by omega
    refine .inr ⟨by omega, ?_⟩
    rcases this with rfl | rfl | rfl | rfl | rfl <;> exact ⟨_, h.symm⟩

/-- What an `RDP` can have done (R36, R105). -/
theorem rdp_next {i : Nat} {s t : State} (h : perform (.rdp i) s = .next t) :
    (∃ b, s.pay.read i = some b ∧ t = s.answerByte b) ∨ t = s.answerFreeByte i := by
  simp only [perform, readPayloadAction] at h
  split_ifs at h
  · split at h <;> simp at h
    exact .inl ⟨_, by assumption, h.symm⟩
  · simp at h
    exact .inr h.symm

end Sys2Proof.Machine
end

