-- ==== Sys2Proof/Laws/Cluster.lean ====
section
/-! SUPPORT. What a cluster's operations can do: replacing a member, a step of one member, reset. -/

namespace Sys2Proof.Machine

@[simp] theorem Cluster.setMember_members (c : Cluster) (k : Nat) (t : State) :
    (c.setMember k t).members = c.members.set k t := rfl

/-- A cluster step that answers a next cluster was a step of a member it has. -/
theorem Cluster.stepAt_next {c d : Cluster} {k : Nat} (h : c.stepAt k = .next d) :
    ∃ s t, c.members[k]? = some s ∧ step s = .next t ∧ d = c.setMember k t := by
  unfold Cluster.stepAt at h
  split at h
  · simp at h
  · rename_i s hs
    split at h <;> simp only [Host.Outcome.next.injEq, reduceCtorEq] at h
    exact ⟨s, _, hs, by assumption, h.symm⟩

@[simp] theorem Cluster.reset_length (g : GroupConfig) : (Cluster.reset g).members.length = g.nInst := by
  simp [Cluster.reset, GroupConfig.nInst]

theorem Cluster.reset_member (g : GroupConfig) (k : Nat) : (Cluster.reset g).members[k]? =
    g.capacities[k]?.map fun c => { State.reset with cfg := { pcap := c, unit := k } } := by
  simp [Cluster.reset]

end Sys2Proof.Machine
end

