-- ==== Sys2Proof/Laws/PerInstr.lean ====
section
/-! SUPPORT. Per-instruction families: one lemma per constructor of Instr. -/

namespace Sys2Proof.Laws.WordShape

/-- The command word of a command: its upper field is 0, its lower field the opcode, and the opcode is not 0
(30_encoding.md R55, R56). -/
def Statement (i : Instr) : Prop :=
  zeroField (encode i) = 0#5 ∧ opField (encode i) = i.opcode ∧ i.opcode ≠ 0#3

theorem hdrEnc : Statement .hdrEnc := by unfold Statement; decide
theorem hdrDec : Statement .hdrDec := by unfold Statement; decide
theorem pktNew : Statement .pktNew := by unfold Statement; decide
theorem pktEnc : Statement .pktEnc := by unfold Statement; decide
theorem pktDec : Statement .pktDec := by unfold Statement; decide
theorem csum : Statement .csum := by unfold Statement; decide
theorem pktVfy : Statement .pktVfy := by unfold Statement; decide

end Sys2Proof.Laws.WordShape
end

