-- ==== Sys2Proof/Tests/Slice0.lean ====
section
/-! SUPPORT. The model's own tests: well-formedness, decoding, one step each of the spec's vectors
(95_test_vectors.md), and for every obligation with hypotheses a state and operands that meet them. -/

namespace Sys2Proof.Tests

open Sys2Proof.Machine

/-! ## Helpers -/

/-- The step answers a next state with this property. -/
def nextIs (o : Host.Outcome State Fault Refusal) (p : State → Bool) : Bool :=
  match o with
  | .next t => p t
  | .fault _ => false
  | .refused _ => false

/-- The step is refused with this name. -/
def refusedIs (o : Host.Outcome State Fault Refusal) (r : Refusal) : Bool :=
  match o with
  | .refused q => decide (q = r)
  | .next _ => false
  | .fault _ => false

/-- The decoder's answer. -/
def decodesTo (cw : Byte) (i : Instr) : Bool :=
  match decode cw with
  | .ok j => decide (j = i)
  | .error _ => false

/-- Header of scenario A, vector V4a. -/
def headerA : Header := ⟨1#8, 42#32, 12345#64, 5#32, 15#32⟩

def payloadA : ByteSeq := [1#8, 2#8, 3#8, 4#8, 5#8]

/-- The first 20 of the 21 header bytes of scenario A, as 95_test_vectors.md prints them. -/
def headerBytesA20 : ByteSeq :=
  [0x01#8, 0x2A#8, 0x00#8, 0x00#8, 0x00#8, 0x39#8, 0x30#8, 0x00#8, 0x00#8, 0x00#8] ++
  [0x00#8, 0x00#8, 0x00#8, 0x05#8, 0x00#8, 0x00#8, 0x00#8, 0x0F#8, 0x00#8, 0x00#8]

def headerBytesA : ByteSeq := headerBytesA20 ++ [0x00#8]

/-- Vector V3. -/
def headerV3 : Header := ⟨0xAB#8, 0x12345678#32, 0x0102030405060708#64, 0xDEADBEEF#32, 0xCAFEBABE#32⟩

def headerBytesV3 : ByteSeq :=
  [0xAB#8, 0x78#8, 0x56#8, 0x34#8, 0x12#8, 0x08#8, 0x07#8, 0x06#8, 0x05#8, 0x04#8, 0x03#8] ++
  [0x02#8, 0x01#8, 0xEF#8, 0xBE#8, 0xAD#8, 0xDE#8, 0xBE#8, 0xBA#8, 0xFE#8, 0xCA#8]

/-- An idle block without a packet and with room for four payload bytes. -/
def small : State := { State.reset with cfg := { pcap := 4#32 } }

/-- An idle block with the packet of scenario A in the slot. -/
def withA : State := { State.reset with
  h := headerA, acc := 15#32, cnt := 5#33, pv := true, pay := (List.range 5).zip payloadA }

/-- A block in the middle of a command: opcode, `IDX`, `CNT` as given, room for four payload bytes. -/
def running (op : BitVec 3) (idx : Nat) (cnt : BitVec 33) : State :=
  { small with ph := .run, op := op, idx := idx, cnt := cnt }

/-- The same with the first 20 header bytes of scenario A staged. -/
def staged20 (op : BitVec 3) : State :=
  { running op 20 0#33 with hbuf := (List.range 20).zip headerBytesA20 }

/-! ## Well-formedness and decoding -/

theorem test_wellFormed_refuses_input_to_hdrEnc : (Action.command 0x01#8 [7#8]).wellFormed = false := by decide
theorem test_wellFormed_refuses_input_to_pktEnc : (Action.command 0x04#8 [7#8]).wellFormed = false := by decide
theorem test_wellFormed_refuses_input_to_pktVfy : (Action.command 0x07#8 [7#8]).wellFormed = false := by decide
theorem test_wellFormed_refuses_input_to_reserved : (Action.command 0x00#8 [7#8]).wellFormed = false := by decide
theorem test_wellFormed_accepts_input_to_csum : (Action.command 0x06#8 [7#8]).wellFormed = true := by decide

/-- Words written out bit by bit: bits 7 to 3 are 0, bits 2 to 0 the opcode (R55, R56). -/
theorem test_decode_header_words : decodesTo 0b00000001#8 .hdrEnc ∧ decodesTo 0b00000010#8 .hdrDec := by decide
theorem test_decode_packet_words :
    decodesTo 0b00000011#8 .pktNew ∧ decodesTo 0b00000100#8 .pktEnc ∧ decodesTo 0b00000101#8 .pktDec ∧
      decodesTo 0b00000111#8 .pktVfy := by decide
theorem test_decode_checksum_word : decodesTo 0b00000110#8 .csum := by decide
/-- V28: the opcode bits say HDR.ENC, bit 3 is set. -/
theorem test_decode_refuses_bit_3 : (decodeTableWord 8 0b00001001).isNone = true := by decide

/-! ## Vectors of 95_test_vectors.md, one step each -/

/-- V3, left to right. -/
theorem test_hdrEnc_V3 :
    nextIs (perform (.command 0x01#8 []) { small with h := headerV3 })
      (fun t => t.emitted = headerBytesV3.map .out ++ [.outEnd, .done]) := by decide
/-- V8: V3 right to left, with three trailing bytes. -/
theorem test_hdrDec_V8 :
    nextIs (perform (.command 0x02#8 (headerBytesV3 ++ [0x11#8, 0x22#8, 0x33#8])) small)
      (fun t => t.h = headerV3 ∧ t.status = 0x00#8) := by decide
/-- V9: 20 bytes change only `ERR`. -/
theorem test_hdrDec_V9 :
    nextIs (perform (.command 0x02#8 (headerBytesV3.take 20)) withA)
      (fun t => t.status = 0x05#8 ∧ t.h = headerA ∧ t.pay = withA.pay) := by decide
/-- V11: the header fields were written before. -/
theorem test_pktNew_V11 :
    nextIs (perform (.command 0x03#8 payloadA) { State.reset with h := ⟨1#8, 42#32, 12345#64, 9#32, 9#32⟩ })
      (fun t => t.h = headerA ∧ t.acc = 15#32 ∧ t.cnt = 5#33 ∧ t.status = 0x04#8) := by decide +kernel
/-- U2: five bytes where `PCAP` is 4. -/
theorem test_pktNew_beyond_capacity :
    refusedIs (perform (.command 0x03#8 payloadA) small) .newOutsideEnvelope := by decide
/-- V12. -/
theorem test_pktEnc_V12 :
    nextIs (perform (.command 0x04#8 []) withA)
      (fun t => t.emitted = (headerBytesA ++ payloadA).map .out ++ [.outEnd, .done]) := by decide +kernel
/-- V22. -/
theorem test_pktEnc_V22 :
    nextIs (perform (.command 0x04#8 []) State.reset) (fun t => t.status = 0x03#8 ∧ t.emitted = [.done]) := by decide
/-- V14: 25 of the 26 bytes. -/
theorem test_pktDec_V14 :
    nextIs (perform (.command 0x05#8 (headerBytesA ++ payloadA.take 4)) State.reset)
      (fun t => t.status = 0x02#8 ∧ t.h = headerA ∧ t.acc = 10#32 ∧ t.cnt = 4#33) := by decide +kernel
/-- V18: a wrong checksum field is accepted. -/
theorem test_pktDec_V18 :
    nextIs (perform (.command 0x05#8
        ([0x07#8, 0x09#8, 0#8, 0#8, 0#8, 0x0B#8, 0#8, 0#8, 0#8, 0#8, 0#8, 0#8, 0#8, 0x05#8, 0#8, 0#8, 0#8] ++
          [0xAD#8, 0xDE#8, 0#8, 0#8] ++ payloadA)) State.reset)
      (fun t => t.status = 0x04#8 ∧ t.h = ⟨7#8, 9#32, 11#64, 5#32, 57005#32⟩ ∧ t.acc = 15#32 ∧ t.cnt = 5#33) := by
  decide +kernel
/-- V24f: `80` counts as 128. -/
theorem test_csum_V24f :
    nextIs (perform (.command 0x06#8 [0xFF#8, 0x00#8, 0x80#8, 0x7F#8]) withA)
      (fun t => t.acc = 510#32 ∧ t.cnt = 4#33 ∧ t.status = 0x04#8 ∧ t.h = headerA) := by decide +kernel
/-- V24e: the sum is not kept to 8 bits. -/
theorem test_csum_V24e : checksum [0xFF#8, 0xFF#8, 0xFF#8, 0xFF#8] = 1020#32 := by decide
/-- P2, after the second decode: two payload bytes swapped still verify. -/
theorem test_pktVfy_P2_swapped :
    nextIs (perform (.command 0x07#8 []) { withA with pay := (List.range 5).zip [5#8, 2#8, 3#8, 4#8, 1#8] })
      (fun t => t.status = 0x0C#8 ∧ t.acc = 15#32) := by decide +kernel
/-- P2, after the third decode: a corrupted payload byte; `VOK` is 0 and it is no error. -/
theorem test_pktVfy_P2_corrupted :
    nextIs (perform (.command 0x07#8 []) { withA with vok := true, pay := (List.range 5).zip [1#8, 2#8, 19#8, 4#8, 5#8] })
      (fun t => t.status = 0x04#8 ∧ t.acc = 31#32 ∧ t.cnt = 5#33) := by decide +kernel
/-- V25. -/
theorem test_reserved_V25 :
    nextIs (perform (.command 0x00#8 []) State.reset) (fun t => t.status = 0x03#8 ∧ t.emitted = [.done]) := by decide
/-- V32: the write is truncated to 8 bits. -/
theorem test_wr_V32 :
    nextIs (perform (.wr 0 0x1FF#64) State.reset) (fun t => t.readRegister 0 = 0xFF#64) := by decide
/-- V35: a write to a header register clears `PV` and `VOK`. -/
theorem test_wr_V35 : nextIs (perform (.wr 0 1#64) { withA with vok := true }) (fun t => t.status = 0#8) := by decide
/-- V34. -/
theorem test_rd_V34 :
    nextIs (perform (.rd 9) withA) (fun t => t.emitted = [.rdValue 0#64]) := by decide
/-- V36. -/
theorem test_rdp_V36 : nextIs (perform (.rdp 4) withA) (fun t => t.emitted = [.rdpValue 5#8]) := by decide
/-- V37. -/
theorem test_reset_V37 :
    nextIs (perform .reset (running 5#3 20 0#33)) (fun t => t.ph = .idle ∧ t.status = 0#8 ∧ t.emitted = []) := by decide
/-- 95_test_vectors.md 2.5: the 21st byte writes `H`. -/
theorem test_byte_21st :
    nextIs (perform (.byte 0x00#8) (staged20 5#3)) (fun t => t.h = headerA ∧ t.idx = 21 ∧ t.cnt = 0#33) := by decide
/-- 95_test_vectors.md 2.5: `END` after byte 19. -/
theorem test_end_after_20_bytes :
    nextIs (perform .endInput (staged20 5#3)) (fun t => t.status = 0x01#8 ∧ t.h = small.h ∧ t.emitted = [.done]) := by
  decide
/-- R95: the byte that reaches the capacity is stored, the next one is not. -/
theorem test_byte_at_capacity :
    nextIs (perform (.byte 9#8) (running 3#3 0 3#33)) (fun t => t.pay = [(3, 9#8)] ∧ t.cnt = 4#33) ∧
      refusedIs (perform (.byte 9#8) (running 3#3 0 4#33)) .newOutsideEnvelope := by decide

/-! ## Witnesses: states that have the invariant -/

theorem test_inv_small : small.Inv := by constructor <;> decide
theorem test_inv_withA : withA.Inv := by constructor <;> decide +kernel
theorem test_inv_staged20_hdrDec : (staged20 2#3).Inv := by constructor <;> decide
theorem test_inv_staged20_pktDec : (staged20 5#3).Inv := by constructor <;> decide
theorem test_inv_running_pktNew : (running 3#3 0 0#33).Inv := by constructor <;> decide
theorem test_inv_running_csum : (running 6#3 0 7#33).Inv := by constructor <;> decide

/-! ## Witnesses: hypotheses of the obligations, each clause, at the ends of its range -/

theorem test_witness_StepRunsTheDecodedCommand :
    ({ small with actions := [.command 0x06#8 [1#8], .reset] } : State).actions = .command 0x06#8 [1#8] :: [.reset] ∧
    decodesTo 0x06#8 .csum ∧ Instr.csum.wellFormed = true ∧ (Action.command 0x06#8 [1#8]).wellFormed = true ∧
    decodeTableWord 8 6 = some .csum := by decide

theorem test_witness_StepsRunThePendingActionsInOrder :
    small.actions = [] ∧ ({ small with actions := [.rd 7, .reset] } : State).actions.length = 2 := by decide

theorem test_witness_ReservedWords : small.ph = .idle ∧ 8 ≤ (0x08#8).toNat ∧ 8 ≤ (0xFF#8).toNat := by decide

theorem test_witness_LittleEndian :
    ([1#8, 2#8, 3#8, 4#8] : ByteSeq).length = 4 ∧ (headerBytesV3.take 8).length = 8 ∧ headerBytesV3.length = 21 := by
  decide

theorem test_witness_Checksum :
    ([1#8, 2#8, 3#8] : ByteSeq).Perm [3#8, 2#8, 1#8] ∧
    (([1#8, 2#8] : ByteSeq).map BitVec.toNat).sum = (([3#8] : ByteSeq).map BitVec.toNat).sum := by decide

theorem test_witness_ChecksumFirstWraps :
    ([] : ByteSeq).length < 16843010 ∧ (List.replicate 16843009 (0xFF#8 : Byte)).length < 16843010 := by
  simp only [List.length_nil, List.length_replicate]; decide

theorem test_witness_HdrDec :
    ({ small with input := [] } : State).input.length < 21 ∧ headerBytesV3.length = 21 ∧
    (headerBytesV3.take 20).length < 21 ∧ headerBytesV3 = hdrPack headerV3 ++ [] := by decide

theorem test_witness_PktNew :
    ({ small with input := payloadA.take 4 } : State).input.length = small.cfg.pcap.toNat ∧
    ({ small with input := [], cfg := { pcap := 0#32 } } : State).input.length ≤ (0#32).toNat ∧
    small.cfg.pcap.toNat < ({ small with input := payloadA } : State).input.length := by decide

theorem test_witness_PktNew_4GiB : ∃ bs : ByteSeq, 2 ^ 32 ≤ bs.length :=
  ⟨List.replicate (2 ^ 32) 0#8, by rw [List.length_replicate]⟩

theorem test_witness_PacketInSlot :
    withA.ph = .idle ∧ withA.pv = true ∧ withA.payload = some payloadA ∧
    ({ small with pv := true } : State).payload = some [] ∧ small.pv = false := by decide +kernel

theorem test_witness_PktDec_lengths :
    ([] : ByteSeq).length < 21 ∧ headerBytesA20.length < 21 ∧ headerBytesA = hdrPack headerA ∧
    (payloadA.take 4).length ≠ headerA.payloadSize.toNat ∧ (payloadA ++ [0#8]).length ≠ headerA.payloadSize.toNat ∧
    payloadA.length = headerA.payloadSize.toNat ∧ payloadA.length ≤ State.reset.cfg.pcap.toNat ∧
    small.cfg.pcap.toNat < payloadA.length := by decide

theorem test_witness_PktDecNeverLooksAtTheChecksum :
    ∃ t, exec .pktDec { small with input := hdrPack headerA ++ payloadA.take 4 } = .next t ∧ t.err ≠ .ok :=
  ⟨_, rfl, by decide⟩

theorem test_witness_NewPacketAlwaysVerifies :
    ∃ t, exec .pktNew { small with input := payloadA.take 4 } = .next t ∧ t.pv = true := ⟨_, rfl, rfl⟩

theorem test_witness_PayloadBufferFrame :
    (∃ t, exec .csum { withA with input := [1#8] } = .next t) ∧ (∃ t, exec .hdrEnc withA = .next t) ∧
    (∃ t, exec .hdrDec { withA with input := headerBytesA } = .next t) ∧
    (∃ t, perform (.byte 9#8) (running 5#3 21 4#33) = .next t) ∧
    (∃ t, perform (.byte 9#8) (running 3#3 0 3#33) = .next t) := ⟨⟨_, rfl⟩, ⟨_, rfl⟩, ⟨_, rfl⟩, ⟨_, rfl⟩, ⟨_, rfl⟩⟩

theorem test_witness_RoundTrips :
    small.ph = .idle ∧ 21 ≤ headerBytesA.length ∧ (payloadA.take 4).length ≤ small.cfg.pcap.toNat ∧
    ([] : ByteSeq).length ≤ small.cfg.pcap.toNat ∧ 1 ≤ payloadA.length := by decide

theorem test_witness_ResultCode :
    (∃ t, exec .hdrDec { small with input := headerBytesA } = .next t) ∧ (∃ t, exec .pktVfy small = .next t) ∧
    (∃ t, perform (.command 0x08#8 []) small = .next t) ∧
    (∃ t, perform (.command 0x05#8 headerBytesA) small = .next t) :=
  ⟨⟨_, rfl⟩, ⟨_, rfl⟩, ⟨_, rfl⟩, ⟨_, rfl⟩⟩

theorem test_witness_Phases : (running 6#3 0 0#33).ph = .run ∧ small.ph = .idle := by decide

theorem test_witness_PayloadPort :
    withA.ph = .idle ∧ withA.pv = true ∧ 0 < withA.h.payloadSize.toNat ∧ 4 < withA.h.payloadSize.toNat ∧
    ¬ 5 < withA.h.payloadSize.toNat ∧ ¬ small.pv = true := by decide

theorem test_witness_DecodeBytes :
    (running 2#3 0 0#33).idx < 20 ∧ (running 5#3 19 0#33).idx < 20 ∧ (running 5#3 19 0#33).ph = .run ∧
    (staged20 2#3).idx = 20 ∧ (staged20 2#3).hbuf.readRange 0 20 = some headerBytesA20 ∧ (staged20 5#3).op = 5#3 ∧
    21 ≤ (running 2#3 21 0#33).idx := by decide

theorem test_witness_PayloadBytes :
    (running 3#3 0 3#33).cnt.toNat < small.cfg.pcap.toNat ∧ small.cfg.pcap.toNat ≤ (running 3#3 0 4#33).cnt.toNat ∧
    (running 3#3 0 4#33).op = 3#3 ∧ (running 6#3 0 0#33).op = 6#3 := by decide

theorem test_witness_EndChoosesTheResult :
    (running 5#3 20 0#33).idx < 21 ∧ 21 ≤ (running 5#3 21 1#33).idx ∧
    (running 5#3 21 1#33).cnt.toNat ≠ small.h.payloadSize.toNat ∧
    (running 5#3 21 0#33).cnt.toNat = small.h.payloadSize.toNat ∧
    (running 5#3 21 0#33).cnt.toNat ≤ small.cfg.pcap.toNat ∧ (running 2#3 21 0#33).op = 2#3 := by decide

theorem test_witness_ByteSerialLevel :
    small.ph = .idle ∧ (Action.command 0x03#8 (payloadA.take 4)).wellFormed = true ∧
    (Action.command 0x00#8 []).wellFormed = true ∧ (Action.command 0x04#8 []).wellFormed = true ∧
    small.inEnvelope (.command 0x03#8 (payloadA.take 4)) := by
  refine ⟨by decide, by decide, by decide, by decide, ?_⟩
  simp only [State.inEnvelope]; decide

theorem test_witness_PacketBecomesValid :
    (∃ t, perform (.command 0x03#8 []) small = .next t ∧ small.pv = false ∧ t.pv = true) ∧
    (∃ t, perform .endInput (running 3#3 0 0#33) = .next t ∧ t.pv = true) ∧
    (∃ t, perform .endInput (running 5#3 21 0#33) = .next t ∧ t.pv = true) :=
  ⟨⟨_, rfl, rfl, rfl⟩, ⟨_, rfl, rfl⟩, ⟨_, rfl, rfl⟩⟩

theorem test_witness_Verified :
    (∃ t, perform (.command 0x07#8 []) withA = .next t ∧ withA.vok = false ∧ t.vok = true) ∧
    (∃ t, perform (.wr 0 7#64) withA = .next t ∧ t.h ≠ withA.h) := ⟨⟨_, rfl, rfl, rfl⟩, ⟨_, rfl, by decide⟩⟩

theorem test_witness_Accumulator :
    (∃ t, perform (.command 0x06#8 [1#8]) small = .next t ∧ t.acc ≠ small.acc) ∧
    (∃ t, perform (.byte 1#8) (running 6#3 0 0#33) = .next t ∧ t.cnt ≠ 0#33) :=
  ⟨⟨_, rfl, by decide⟩, ⟨_, rfl, by decide⟩⟩

theorem test_witness_EveryKindOfAction :
    (∃ t, perform (.start 0x02#8) small = .next t ∧ t.ph = .run) ∧
    (∃ t, perform (.start 0x01#8) small = .next t ∧ t.ph = .idle) ∧
    (∃ t, perform (.byte 1#8) (running 5#3 0 0#33) = .next t) ∧ (∃ t, perform .endInput (running 6#3 0 0#33) = .next t) ∧
    (∃ t, perform (.rd 0) (running 6#3 0 0#33) = .next t) ∧ (∃ t, perform (.rdp 0) small = .next t) ∧
    (∃ t, perform (.wr 4 0#64) small = .next t) ∧ (∃ t, perform .reset small = .next t) :=
  ⟨⟨_, rfl, rfl⟩, ⟨_, rfl, rfl⟩, ⟨_, rfl⟩, ⟨_, rfl⟩, ⟨_, rfl⟩, ⟨_, rfl⟩, ⟨_, rfl⟩, ⟨_, rfl⟩⟩

theorem test_witness_Instances :
    ∃ d, (⟨[small, { small with actions := [.command 0x06#8 []] }], by decide⟩ : Cluster).stepAt 1 = .next d := ⟨_, rfl⟩

/-- R5: by default one instance, with `PCAP` 2^32 - 1. -/
theorem test_group_defaults :
    ((Cluster.reset).members.map fun s => s.cfg.pcap) = [0xFFFFFFFF#32] ∧ (Cluster.reset).members.length = 1 := by
  decide

theorem test_witness_GroupReset :
    ({ capacities := [4#32, 0#32] } : GroupConfig).capacities[1]? = some 0#32 := by decide

theorem test_witness_EveryStep :
    ∃ t, step { withA with actions := [.command 0x07#8 []] } = .next t ∧ t.vok = true := ⟨_, rfl, rfl⟩

theorem test_witness_EveryStep_inv : ({ withA with actions := [.command 0x07#8 []] } : State).Inv := by
  constructor <;> decide +kernel

theorem test_witness_Dutiful :
    (small.allows (.command 0x03#8 (payloadA.take 4)) ∧ small.inEnvelope (.command 0x03#8 (payloadA.take 4))) ∧
    (small.allows (.wr 0 0#64) ∧ small.inEnvelope (.wr 0 0#64)) ∧
    ((running 3#3 0 0#33).allows (.byte 1#8) ∧ (running 3#3 0 0#33).inEnvelope (.byte 1#8)) ∧
    ((staged20 5#3).allows .endInput ∧ (staged20 5#3).inEnvelope .endInput) ∧
    ((staged20 5#3).allows (.rd 0) ∧ (staged20 5#3).inEnvelope (.rd 0)) := by
  simp only [State.allows, State.inEnvelope]; decide

end Sys2Proof.Tests
end

section
/-! PROOFS. `le_N` and `from_le_N` (00_scope.md R8): the model's recursive sum is the sum the spec writes, and
the two primitives are inverse at every whole number of bytes. -/

namespace Sys2Proof.Machine

theorem getElem?_toLe {w n k : Nat} (v : BitVec w) (hk : k < n) : (toLe n v)[k]? = some (v.extractLsb' (8 * k) 8) := by
  simp [toLe, hk]

/-- The recursion of `leSum` is R8's sum of `b[k] * 2^(8k)`. -/
theorem leSum_eq_sum (b : ByteSeq) : leSum b = (b.mapIdx fun k c => c.toNat * 2 ^ (8 * k)).sum := by
  induction b with
  | nil => simp [leSum]
  | cons c b ih =>
    have tail : (b.mapIdx fun k c => c.toNat * 2 ^ (8 * (k + 1))).sum = 2 ^ 8 * leSum b :=
      calc (b.mapIdx fun k c => c.toNat * 2 ^ (8 * (k + 1))).sum
        _ = (b.mapIdx fun k c => 2 ^ 8 * (c.toNat * 2 ^ (8 * k))).sum := by
          congr 2 with k c
          ring
        _ = 2 ^ 8 * (b.mapIdx fun k c => c.toNat * 2 ^ (8 * k)).sum := by
          simp only [List.mapIdx_eq_zipIdx_map, List.sum_map_mul_left]
        _ = 2 ^ 8 * leSum b := by rw [ih]
    rw [leSum, List.mapIdx_cons, List.sum_cons, tail]
    simp

/-- `from_le_N` does not wrap: the sum of `n` bytes fits in `8 * n` bits. -/
theorem toNat_fromLe {n : Nat} {b : ByteSeq} (hb : b.length = n) : (fromLe (8 * n) b).toNat = leSum b := by
  subst hb
  rw [fromLe, BitVec.toNat_ofNat, Nat.mod_eq_of_lt (leSum_lt b)]

theorem fromLe_toLe (n : Nat) (v : BitVec (8 * n)) : fromLe (8 * n) (toLe n v) = v := by
  apply BitVec.eq_of_toNat_eq
  rw [toNat_fromLe (toLe_length n v), leSum_toLe, Nat.mod_eq_of_lt v.isLt]

theorem toLe_fromLe {n : Nat} {b : ByteSeq} (hb : b.length = n) : toLe n (fromLe (8 * n) b) = b := by
  subst hb
  exact toLe_leSum b le_rfl

end Sys2Proof.Machine

open Sys2Proof.Machine

/-- Settles O9: R8's clauses at 4 and 8 bytes of the laws that hold for every number of bytes. -/
theorem littleEndianPrimitivesAreInverse : Obligations.LittleEndianPrimitivesAreInverse :=
  ⟨fun v _ hk => getElem?_toLe v hk, fun v _ hk => getElem?_toLe v hk,
    fun b hb => (toNat_fromLe hb).trans (leSum_eq_sum b), fun b hb => (toNat_fromLe hb).trans (leSum_eq_sum b),
    fromLe_toLe 4, fromLe_toLe 8,
    fun _ hb => toLe_fromLe hb, fun _ hb => toLe_fromLe hb⟩
end

section
/-! PROOFS. The values that reset leaves (10_state.md R24, R131). -/

namespace Sys2Proof.Machine

/-- The eight registers that exist are small enough to read one by one; R22 gives 0 for every other number. -/
@[simp] theorem State.reset_readRegister (r : Nat) : State.reset.readRegister r = 0#64 := by
  have present : ∀ r < 8, State.reset.readRegister r = 0#64 := by decide
  obtain hr | hr := Nat.lt_or_ge r 8
  · exact present r hr
  · exact State.readRegister_absent _ hr

end Sys2Proof.Machine

open Sys2Proof.Machine

/-- Settles O1: the stored and computed values of R24 by evaluation, the clauses over every index and every
register number by the laws of the empty buffer and of the register port. -/
theorem resetLeavesTheListedValues : Obligations.ResetLeavesTheListedValues :=
  ⟨rfl, rfl, rfl, rfl, State.reset_pv, rfl, rfl, rfl, State.reset_ph, Memory.read_nil, State.reset_readRegister⟩
end

section
/-! PROOFS. `hdr_pack` and `hdr_unpack` (30_encoding.md R46 to R51): each field of the header is one slice of the
21 bytes, and adjacent slices join, so that the laws of `le_N` and `from_le_N` carry over to the header. -/

namespace Sys2Proof.Machine

/-- Two adjacent slices are one. -/
theorem slice_append_slice (s : ByteSeq) {a m b : Nat} (ham : a ≤ m) (hmb : m ≤ b) :
    slice s a m ++ slice s (m + 1) b = slice s a b := by
  rw [slice, slice, slice, show b + 1 - a = (m + 1 - a) + (b + 1 - (m + 1)) by omega, List.take_add,
    List.drop_drop, Nat.add_sub_cancel' (Nat.le_succ_of_le ham)]

/-- `H.MT` on the wire is a little-endian field of one byte, like the others of four and eight. -/
theorem toLe_one (v : Byte) : toLe 1 v = [v] := by
  simp [toLe]

theorem hdrPack_eq_toLe (h : Header) : hdrPack h = toLe 1 h.messageType ++ toLe 4 h.sequence ++ toLe 8 h.senderId ++
    toLe 4 h.payloadSize ++ toLe 4 h.checksum := by
  rw [hdrPack, toLe_one]

theorem slice_hdrPack_messageType (h : Header) : slice (hdrPack h) 0 0 = toLe 1 h.messageType := by
  rw [toLe_one]
  rfl

theorem slice_hdrPack_sequence (h : Header) : slice (hdrPack h) 1 4 = toLe 4 h.sequence := rfl

theorem slice_hdrPack_senderId (h : Header) : slice (hdrPack h) 5 12 = toLe 8 h.senderId := rfl

theorem slice_hdrPack_payloadSize (h : Header) : slice (hdrPack h) 13 16 = toLe 4 h.payloadSize := rfl

theorem slice_hdrPack_checksum (h : Header) : slice (hdrPack h) 17 20 = toLe 4 h.checksum := rfl

/-- Every field is read back from its own slice. -/
theorem hdrUnpack_hdrPack (h : Header) : hdrUnpack (hdrPack h) = h := by
  rw [hdrUnpack, slice_hdrPack_messageType, slice_hdrPack_sequence, slice_hdrPack_senderId,
    slice_hdrPack_payloadSize, slice_hdrPack_checksum, fromLe_toLe 1, fromLe_toLe 4, fromLe_toLe 8, fromLe_toLe 4,
    fromLe_toLe 4]

/-- The five fields write back the five slices they were read from, and these make up the sequence. -/
theorem hdrPack_hdrUnpack {b : ByteSeq} (hb : b.length = 21) : hdrPack (hdrUnpack b) = b := by
  have field (n i j : Nat) (hj : j < 21) (hn : j + 1 - i = n) : toLe n (fromLe (8 * n) (slice b i j)) = slice b i j :=
    toLe_fromLe ((slice_length b i j (hb ▸ hj)).trans hn)
  calc hdrPack (hdrUnpack b)
    _ = slice b 0 0 ++ slice b 1 4 ++ slice b 5 12 ++ slice b 13 16 ++ slice b 17 20 := by
      rw [hdrPack_eq_toLe, ← field 1 0 0 (by decide) rfl, ← field 4 1 4 (by decide) rfl,
        ← field 8 5 12 (by decide) rfl, ← field 4 13 16 (by decide) rfl, ← field 4 17 20 (by decide) rfl]
      rfl
    _ = slice b 0 20 := by
      rw [slice_append_slice b (by decide) (by decide), slice_append_slice b (by decide) (by decide),
        slice_append_slice b (by decide) (by decide), slice_append_slice b (by decide) (by decide)]
    _ = b := by rw [slice_header, List.take_of_length_le hb.le]

end Sys2Proof.Machine

open Sys2Proof.Machine

/-- Settles O10: R51's two inverse directions, field by field. -/
theorem headerPackAndUnpackAreInverse : Obligations.HeaderPackAndUnpackAreInverse :=
  ⟨fun h => ⟨hdrPack_length h, hdrUnpack_hdrPack h⟩, fun _ hb => hdrPack_hdrUnpack hb⟩

/-- Settles O8: `hdr_pack` writes the five fields out in R46's order, so it evaluates to the table's 21 rows. -/
theorem headerBytesFollowTheOffsetTable : Obligations.HeaderBytesFollowTheOffsetTable := fun _ => rfl
end

section
/-! PROOFS. The reserved command words (30_encoding.md R57): which words they are, how many, and what each does. -/

namespace Sys2Proof

/-- `ZERO` is what is left of the word above its low three bits. -/
theorem zeroField_eq_zero_iff (cw : Byte) : zeroField cw = 0#5 ↔ cw.toNat < 8 := by
  rw [zeroField, ← BitVec.toNat_inj, BitVec.extractLsb'_toNat, Nat.shiftRight_eq_div_pow, BitVec.toNat_ofNat]
  omega

theorem decode_of_ge {cw : Byte} (h : 8 ≤ cw.toNat) : decode cw = .error .zeroFieldSet :=
  if_pos fun hz => Nat.not_lt.2 h ((zeroField_eq_zero_iff cw).1 hz)

theorem decode_zero : decode 0x00#8 = .error .opcodeZero := rfl

theorem decode_ok_of_lt {cw : Byte} (h0 : cw ≠ 0x00#8) (h8 : cw.toNat < 8) : ∃ i, decode cw = .ok i := by
  have words : ∀ n < 8, n ≠ 0 → (decode (BitVec.ofNat 8 n)).isOk = true := by decide
  have hok := words cw.toNat h8 fun hz => h0 (BitVec.eq_of_toNat_eq hz)
  rw [BitVec.ofNat_toNat, BitVec.setWidth_eq] at hok
  cases hd : decode cw with
  | ok i => exact ⟨i, rfl⟩
  | error e => simp [hd, Except.isOk, Except.toBool] at hok

/-- The reserved words of R57. -/
theorem decode_error_iff (cw : Byte) : (∃ e, decode cw = .error e) ↔ (cw = 0x00#8 ∨ 8 ≤ cw.toNat) := by
  constructor
  · rintro ⟨e, he⟩
    by_contra! hcw
    obtain ⟨i, hi⟩ := decode_ok_of_lt hcw.1 hcw.2
    simp [hi] at he
  · rintro (rfl | h)
    · exact ⟨_, decode_zero⟩
    · exact ⟨_, decode_of_ge h⟩

theorem decodeTableWord_of_ge {n : Nat} (h8 : 8 ≤ n) (h256 : n < 256) : decodeTableWord 8 n = none := by
  have hd : decode (BitVec.ofNat 8 n) = .error .zeroFieldSet :=
    decode_of_ge (by rwa [BitVec.toNat_ofNat, Nat.mod_eq_of_lt h256])
  simp [decodeTableWord, decodeBytes, hd]

/-- Of the eight words with `ZERO = 0` one is reserved, and all of the other 248 are. -/
theorem reservedWords_length :
    ((List.range 256).filter fun n => (decodeTableWord 8 n).isNone).length = 249 := by
  have low : ((List.range 8).filter fun n => (decodeTableWord 8 n).isNone).length = 1 := by decide
  have high : ∀ n ∈ (List.range 248).map (8 + ·), (decodeTableWord 8 n).isNone = true := by
    simp only [List.mem_map, List.mem_range]
    rintro _ ⟨k, hk, rfl⟩
    rw [decodeTableWord_of_ge (by omega) (by omega)]
    rfl
  rw [show 256 = 8 + 248 from rfl, List.range_add, List.filter_append, List.length_append, low,
    List.filter_eq_self.2 high, List.length_map, List.length_range]

end Sys2Proof

namespace Sys2Proof.Machine

/-- An error raised by an idle block changes `ERR` alone. -/
theorem State.raiseError_idle {s : State} (hi : s.ph = .idle) (e : ResultCode) :
    s.raiseError e = { s with err := e, emitted := s.emitted ++ [.done] } := by
  simp [State.raiseError, State.complete, hi]

theorem perform_command_reserved {s : State} {cw : Byte} {e : DecodeError} (hi : s.ph = .idle)
    (hd : decode cw = .error e) : perform (.command cw []) s = .next (s.raiseError .illegalCommand) := by
  simp [perform, commandAction, hd, hi]

theorem perform_start_reserved {s : State} {cw : Byte} {e : DecodeError} (hi : s.ph = .idle)
    (hd : decode cw = .error e) : perform (.start cw) s = .next (s.raiseError .illegalCommand) := by
  simp [perform, startEvent, hd, hi]

end Sys2Proof.Machine

open Sys2Proof Sys2Proof.Machine

/-- Settles O7: the reserved words by the two fields of the word, their effect by the one error entry. -/
theorem reservedWordsCompleteWithIllegalCommand : Obligations.ReservedWordsCompleteWithIllegalCommand := by
  refine ⟨decode_error_iff, reservedWords_length, fun s cw hi hcw => ?_⟩
  obtain ⟨e, hd⟩ := (decode_error_iff cw).2 hcw
  rw [← State.raiseError_idle hi]
  exact ⟨perform_command_reserved hi hd, perform_start_reserved hi hd⟩
end

section
/-! PROOFS. The Header Codec commands (40_header_codec.md R65 to R67): the next state of each from an idle block, what
`ENCH` does, and the two round trips by the inverse laws of `hdr_pack` and `hdr_unpack`. -/

namespace Sys2Proof.Machine

/-- An idle block that completes a command keeps its phase: only `ERR` and the `DONE` are new. -/
theorem State.complete_idle {s : State} (hi : s.ph = .idle) (c : ResultCode) :
    s.complete c = { s with err := c, emitted := s.emitted ++ [.done] } := State.raiseError_idle hi c

/-! ## Host actions that answer a next state -/

/-- A command line as R59 writes it runs its command on the whole input sequence. -/
theorem perform_command_ok {cw : Byte} {input : ByteSeq} {i : Instr} (hd : decode cw = .ok i)
    (hw : i.takesInput = true ∨ input = []) (s : State) :
    perform (.command cw input) s = exec i { s with input := input } := by
  simp [perform, commandAction, hd, hw]

@[simp] theorem State.writeRegister_ph (s : State) (r : Nat) (v : BitVec 64) : (s.writeRegister r v).ph = s.ph := by
  unfold State.writeRegister
  split <;> rfl

theorem perform_wr_idle {s : State} (hi : s.ph = .idle) (r : Nat) (v : BitVec 64) :
    perform (.wr r v) s = .next (s.writeRegister r v) := by
  simp [perform, writeAction, hi]

/-! ## HDR.ENC and HDR.DEC -/

/-- R65: no header makes HDR.ENC fail. -/
theorem exec_hdrEnc_idle {s : State} (hi : s.ph = .idle) :
    exec .hdrEnc s = .next ((s.emitOutput (hdrPack s.h)).complete .ok) := whenIdle_idle hi _

/-- R66: HDR.DEC of an input that holds a header ignores what follows its first 21 bytes. -/
theorem exec_hdrDec_idle {s : State} (hi : s.ph = .idle) (hn : 21 ≤ s.input.length) :
    exec .hdrDec s =
      .next ((s.takeInput.loadHeader (hdrUnpack (s.input.take 21))).dropPacket.complete .ok) := by
  have long : ¬ s.input.length < hdrLen := Nat.not_lt.2 hn
  rw [exec, execHdrDec, whenIdle_idle hi, if_neg long, slice_header]

theorem perform_hdrEnc_idle {s : State} (hi : s.ph = .idle) :
    perform (.command 0x01#8 []) s = .next ((s.takeInput.emitOutput (hdrPack s.h)).complete .ok) :=
  (perform_command_ok rfl (.inr rfl) s).trans (exec_hdrEnc_idle hi)

theorem perform_hdrDec_idle {s : State} {bs : ByteSeq} (hi : s.ph = .idle) (hn : 21 ≤ bs.length) :
    perform (.command 0x02#8 bs) s =
      .next ((s.takeInput.loadHeader (hdrUnpack (bs.take 21))).dropPacket.complete .ok) :=
  (perform_command_ok rfl (.inl rfl) s).trans (exec_hdrDec_idle hi hn)

/-! ## `ENCH` -/

/-- The five register writes of `ENCH` load the whole header; every write drops the packet (R22). -/
theorem State.writeRegister_header (s : State) (h : Header) :
    ((((s.writeRegister 0 (h.messageType.setWidth 64)).writeRegister 1 (h.sequence.setWidth 64)).writeRegister 2
      h.senderId).writeRegister 3 (h.payloadSize.setWidth 64)).writeRegister 4 (h.checksum.setWidth 64) =
      s.dropPacket.loadHeader h := by
  simp [State.writeRegister, State.dropPacket, State.loadHeader, BitVec.setWidth_setWidth_of_le]

theorem runActions_enchMacro {s : State} (hi : s.ph = .idle) (h : Header) : runActions (enchMacro h) s =
    .next (((s.dropPacket.loadHeader h).takeInput.emitOutput (hdrPack h)).complete .ok) := by
  simp [enchMacro, runActions, perform_wr_idle, State.writeRegister_header, perform_hdrEnc_idle, hi]

/-! ## HDR.DEC, then HDR.ENC -/

theorem runActions_hdrDec_hdrEnc {s : State} {bs : ByteSeq} (hi : s.ph = .idle) (hn : 21 ≤ bs.length) :
    runActions [.command 0x02#8 bs, .command 0x01#8 []] s =
      .next ((((s.takeInput.loadHeader (hdrUnpack (bs.take 21))).dropPacket.complete .ok).takeInput.emitOutput
        (bs.take 21)).complete .ok) := by
  have repacked : hdrPack (hdrUnpack (bs.take 21)) = bs.take 21 := hdrPack_hdrUnpack (List.length_take_of_le hn)
  simp [runActions, perform_hdrDec_idle hi hn, perform_hdrEnc_idle (State.complete_ph _ _), repacked]

end Sys2Proof.Machine

open Sys2Proof Sys2Proof.Machine

/-- Settles O14: the next state of HDR.ENC from an idle block, as one whole-state equation. -/
theorem hdrEncEmitsTheHeader : Obligations.HdrEncEmitsTheHeader := by
  refine ⟨rfl, fun s hi => ?_⟩
  rw [exec_hdrEnc_idle hi, State.complete_idle (s := s.emitOutput _) hi]
  simp [State.emitOutput]

/-- Settles O28: `ENCH` sends `hdr_pack` of its header, which HDR.DEC unpacks; HDR.ENC packs what HDR.DEC has
unpacked. -/
theorem headerRoundTrip : Obligations.HeaderRoundTrip := by
  refine ⟨fun s h hi => ⟨_, hdrPack h, runActions_enchMacro hi h, by simp, ?_⟩,
    fun s bs hi hn => ⟨_, runActions_hdrDec_hdrEnc hi hn, by simp⟩⟩
  have long : 21 ≤ (hdrPack h).length := (hdrPack_length h).ge
  have unpacked : hdrUnpack ((hdrPack h).take 21) = h := by
    rw [List.take_of_length_le (hdrPack_length h).le, hdrUnpack_hdrPack]
  exact ⟨_, perform_hdrDec_idle (State.complete_ph ..) long, unpacked, rfl⟩
end

section
/-! PROOFS. The Packet Codec commands (41_packet_codec.md R70 to R77): the next state of PKT.NEW, PKT.ENC and PKT.DEC
from an idle block, what `SEND` does, and PKT.DEC of what was sent, whole, truncated or padded. -/

namespace Sys2Proof.Machine

/-! ## The packet in the slot -/

/-- The header that PKT.NEW gives a payload (R70): the three fields of the host, and the two derived ones. -/
def packetHeader (mt : BitVec 8) (seq : BitVec 32) (sid : BitVec 64) (p : ByteSeq) : Header :=
  ⟨mt, seq, sid, BitVec.ofNat 32 p.length, checksum p⟩

/-- The slot holds the packet of header `h` and payload `p`, not yet verified: how PKT.NEW and a successful PKT.DEC
leave the block before they complete (R70, R73). -/
def State.withPacket (s : State) (h : Header) (p : ByteSeq) : State :=
  { s with h := h, acc := checksum p, cnt := BitVec.ofNat 33 p.length, pay := (List.range p.length).zip p,
           pv := true, vok := false, input := [] }

@[simp] theorem State.withPacket_h (s : State) (h : Header) (p : ByteSeq) : (s.withPacket h p).h = h := rfl
@[simp] theorem State.withPacket_pay (s : State) (h : Header) (p : ByteSeq) :
    (s.withPacket h p).pay = (List.range p.length).zip p := rfl
@[simp] theorem State.withPacket_emitted (s : State) (h : Header) (p : ByteSeq) :
    (s.withPacket h p).emitted = s.emitted := rfl

/-- Every `PCAP` is below 2^32 (R5), so a payload within it is counted exactly by `H.PSZ`. -/
theorem packetHeader_payloadSize_toNat (mt : BitVec 8) (seq : BitVec 32) (sid : BitVec 64) {p : ByteSeq} {c : Config}
    (fits : p.length ≤ c.pcap.toNat) : (packetHeader mt seq sid p).payloadSize.toNat = p.length :=
  (BitVec.toNat_ofNat ..).trans (Nat.mod_eq_of_lt (fits.trans_lt c.pcap.isLt))

/-- A slot that holds a packet of the declared length has its payload, all of it (R14). -/
theorem State.withPacket_payload (s : State) {h : Header} {p : ByteSeq} (declared : p.length = h.payloadSize.toNat) :
    (s.withPacket h p).payload = some p := by
  obtain ⟨indices, bytes⟩ := Memory.zip_filled p
  rw [State.payload_filled (by simpa [← declared] using indices), State.withPacket_pay, bytes]

/-- Storing changes `PAY` alone. -/
theorem State.payStore_eq (s : State) (i : Nat) (bs : ByteSeq) :
    s.payStore i bs = { s with pay := (s.payStore i bs).pay } := by
  induction bs generalizing s i with
  | nil => rfl
  | cons b bs ih => exact ih (s.payWrite i b) (i + 1)

/-- A payload within the capacity stored into an empty `PAY`, as a whole state. -/
theorem State.payStore_empty_eq (s : State) {bs : ByteSeq} (h : s.pay = []) (fits : bs.length ≤ s.cfg.pcap.toNat) :
    s.payStore 0 bs = { s with pay := (List.range bs.length).zip bs } := by
  rw [State.payStore_eq, State.payStore_empty s bs h fits]

/-! ## PKT.NEW -/

/-- R70: PKT.NEW of a payload within `PCAP`. -/
theorem exec_pktNew_idle {s : State} (hi : s.ph = .idle) (fits : s.input.length ≤ s.cfg.pcap.toNat) :
    exec .pktNew s = .next ((s.withPacket
      (packetHeader s.h.messageType s.h.sequence s.h.senderId s.input) s.input).complete .ok) := by
  rw [exec, execPktNew, whenIdle_idle hi, if_pos fits,
    State.payStore_empty_eq s.dropPacket.takeInput rfl fits]
  rfl

/-- R71: PKT.NEW of a payload longer than `PCAP`. -/
theorem exec_pktNew_beyond {s : State} (hi : s.ph = .idle) (long : s.cfg.pcap.toNat < s.input.length) :
    exec .pktNew s = .refused .newOutsideEnvelope := by
  rw [exec, execPktNew, whenIdle_idle hi, if_neg (Nat.not_le.2 long)]

/-! ## PKT.ENC -/

/-- R72: PKT.ENC of the packet in the slot. -/
theorem exec_pktEnc_packet {s : State} {p : ByteSeq} (hi : s.ph = .idle) (hv : s.pv = true)
    (hp : s.payload = some p) : exec .pktEnc s = .next ((s.emitOutput (hdrPack s.h ++ p)).complete .ok) := by
  rw [exec, execPktEnc, whenIdle_idle hi, if_pos hv, hp]
  rfl

/-- R72: PKT.ENC without a packet. -/
theorem exec_pktEnc_noPacket {s : State} (hi : s.ph = .idle) (hv : s.pv = false) :
    exec .pktEnc s = .next (s.raiseError .illegalCommand) := by
  rw [exec, execPktEnc, whenIdle_idle hi, hv]
  rfl

/-! ## PKT.DEC -/

theorem hdrUnpack_slice_append (h : Header) (cand : ByteSeq) : hdrUnpack (slice (hdrPack h ++ cand) 0 20) = h := by
  rw [slice_header, List.take_left' (hdrPack_length h), hdrUnpack_hdrPack]

/-- The block after steps 2 and 3 of R73: `H` is loaded, `ACC` and `CNT` describe the candidate payload, and the slot
holds no packet. -/
def State.withCandidate (s : State) (h : Header) (cand : ByteSeq) : State :=
  { s with h := h, acc := checksum cand, cnt := satCount cand.length, pay := [], pv := false, vok := false,
           input := [] }

/-- A candidate within the capacity that is stored and accepted is the packet in the slot. -/
theorem State.withCandidate_payStore (s : State) (h : Header) {cand : ByteSeq}
    (fits : cand.length ≤ s.cfg.pcap.toNat) :
    ((s.withCandidate h cand).payStore 0 cand).holdPacket = s.withPacket h cand := by
  have counted : satCount cand.length = BitVec.ofNat 33 cand.length :=
    satCount_below (fits.trans s.cfg.pcap.isLt.le)
  rw [State.payStore_empty_eq (s.withCandidate h cand) rfl fits, State.withCandidate, counted]
  rfl

/-- R73 step 1: PKT.DEC of too few bytes for a header. -/
theorem exec_pktDec_short {s : State} (hi : s.ph = .idle) (short : s.input.length < 21) :
    exec .pktDec s = .next (s.takeInput.dropPacket.clearSums.raiseError .insufficientBytes) := by
  rw [exec, execPktDec, whenIdle_idle hi, if_pos short]

/-- R73 steps 2 and 3: PKT.DEC of a header and a candidate payload comes down to the comparison of the candidate's
length with the declared one. -/
theorem exec_pktDec_append {s : State} {h : Header} {cand : ByteSeq} (hi : s.ph = .idle)
    (hin : s.input = hdrPack h ++ cand) :
    exec .pktDec s =
      if cand.length ≠ h.payloadSize.toNat then .next ((s.withCandidate h cand).raiseError .payloadSizeMismatch)
      else if cand.length ≤ s.cfg.pcap.toNat then
        .next (((s.withCandidate h cand).payStore 0 cand).holdPacket.complete .ok)
      else .refused .decOutsideEnvelope := by
  have long : ¬ (hdrPack h ++ cand).length < hdrLen := by simp
  have rest : (hdrPack h ++ cand).drop hdrLen = cand := List.drop_left' (hdrPack_length h)
  rw [exec, execPktDec, whenIdle_idle hi, hin, if_neg long, rest, hdrUnpack_slice_append]
  rfl

/-- R73 step 4: PKT.DEC of a candidate payload of another length than its header declares. -/
theorem exec_pktDec_mismatch {s : State} {h : Header} {cand : ByteSeq} (hi : s.ph = .idle)
    (hin : s.input = hdrPack h ++ cand) (other : cand.length ≠ h.payloadSize.toNat) : exec .pktDec s =
      .next ((s.withCandidate h cand).raiseError .payloadSizeMismatch) := by
  rw [exec_pktDec_append hi hin, if_pos other]

/-- R73 step 5: PKT.DEC of a candidate payload of the declared length, within `PCAP`. -/
theorem exec_pktDec_packet {s : State} {h : Header} {cand : ByteSeq} (hi : s.ph = .idle)
    (hin : s.input = hdrPack h ++ cand) (declared : cand.length = h.payloadSize.toNat)
    (fits : cand.length ≤ s.cfg.pcap.toNat) :
    exec .pktDec s = .next ((s.withPacket h cand).complete .ok) := by
  rw [exec_pktDec_append hi hin, if_neg (not_not_intro declared), if_pos fits, State.withCandidate_payStore s h fits]

/-! ## Command lines -/

theorem perform_pktNew_idle {s : State} {p : ByteSeq} (hi : s.ph = .idle) (fits : p.length ≤ s.cfg.pcap.toNat) :
    perform (.command 0x03#8 p) s = .next ((s.withPacket
      (packetHeader s.h.messageType s.h.sequence s.h.senderId p) p).complete .ok) :=
  (perform_command_ok rfl (.inl rfl) s).trans (exec_pktNew_idle (s := { s with input := p }) hi fits)

theorem perform_pktEnc_packet {s : State} {p : ByteSeq} (hi : s.ph = .idle) (hv : s.pv = true)
    (hp : s.payload = some p) :
    perform (.command 0x04#8 []) s = .next ((s.takeInput.emitOutput (hdrPack s.h ++ p)).complete .ok) :=
  (perform_command_ok rfl (.inr rfl) s).trans (exec_pktEnc_packet (s := s.takeInput) hi hv hp)

theorem perform_pktDec_short {r : State} {bs : ByteSeq} (hi : r.ph = .idle) (short : bs.length < 21) :
    perform (.command 0x05#8 bs) r =
      .next (r.takeInput.dropPacket.clearSums.raiseError .insufficientBytes) :=
  (perform_command_ok rfl (.inl rfl) r).trans (exec_pktDec_short (s := { r with input := bs }) hi short)

theorem perform_pktDec_mismatch {r : State} {h : Header} {cand : ByteSeq} (hi : r.ph = .idle)
    (other : cand.length ≠ h.payloadSize.toNat) : perform (.command 0x05#8 (hdrPack h ++ cand)) r =
      .next ((r.withCandidate h cand).raiseError .payloadSizeMismatch) :=
  (perform_command_ok rfl (.inl rfl) r).trans (exec_pktDec_mismatch (s := { r with input := _ }) hi rfl other)

theorem perform_pktDec_packet {r : State} {h : Header} {cand : ByteSeq} (hi : r.ph = .idle)
    (declared : cand.length = h.payloadSize.toNat) (fits : cand.length ≤ r.cfg.pcap.toNat) :
    perform (.command 0x05#8 (hdrPack h ++ cand)) r = .next ((r.withPacket h cand).complete .ok) :=
  (perform_command_ok rfl (.inl rfl) r).trans (exec_pktDec_packet (s := { r with input := _ }) hi rfl declared fits)

/-! ## `NEW` and `SEND` -/

theorem runActions_singleton (a : Action) (s : State) : runActions [a] s = perform a s := by
  rw [runActions]
  cases perform a s <;> rfl

/-- What runs after a part of a program that answers a next state. -/
theorem runActions_append {as : List Action} {s t : State} (h : runActions as s = .next t) (bs : List Action) :
    runActions (as ++ bs) s = runActions bs t := by
  induction as generalizing s with
  | nil =>
    obtain rfl : s = t := by simpa [runActions] using h
    rfl
  | cons a as ih =>
    rw [runActions] at h
    rw [List.cons_append, runActions]
    cases ha : perform a s with
    | next u => exact ih (by simpa [ha] using h)
    | fault e => simp [ha] at h
    | refused e => simp [ha] at h

/-- The three register writes of `NEW` load the host's fields of the header; every write drops the packet (R22). -/
theorem State.writeRegister_hostFields (s : State) (mt : BitVec 8) (seq : BitVec 32) (sid : BitVec 64) :
    ((s.writeRegister 0 (mt.setWidth 64)).writeRegister 1 (seq.setWidth 64)).writeRegister 2 sid =
      s.dropPacket.loadHeader { s.h with messageType := mt, sequence := seq, senderId := sid } := by
  simp [State.writeRegister, State.dropPacket, State.loadHeader, BitVec.setWidth_setWidth_of_le]

theorem runActions_hostFields {s : State} (hi : s.ph = .idle) (mt : BitVec 8) (seq : BitVec 32) (sid : BitVec 64) :
    runActions [.wr 0 (mt.setWidth 64), .wr 1 (seq.setWidth 64), .wr 2 sid] s =
      .next (s.dropPacket.loadHeader { s.h with messageType := mt, sequence := seq, senderId := sid }) := by
  simp [runActions, perform_wr_idle, State.writeRegister_hostFields, hi]

/-- `NEW` writes the host's fields, then PKT.NEW derives the others (R60, R70). -/
theorem runActions_newMacro {s : State} {p : ByteSeq} (hi : s.ph = .idle) (fits : p.length ≤ s.cfg.pcap.toNat)
    (mt : BitVec 8) (seq : BitVec 32) (sid : BitVec 64) : runActions (newMacro mt seq sid p) s =
      .next ((s.withPacket (packetHeader mt seq sid p) p).complete .ok) := by
  have split_new : newMacro mt seq sid p = [.wr 0 (mt.setWidth 64), .wr 1 (seq.setWidth 64), .wr 2 sid] ++
    [.command 0x03#8 p] := rfl
  rw [split_new, runActions_append (runActions_hostFields hi mt seq sid), runActions_singleton]
  exact perform_pktNew_idle (s := s.dropPacket.loadHeader _) hi fits

/-- `SEND` is `NEW`, then PKT.ENC of the packet it has put into the slot (R60). -/
theorem runActions_sendMacro {s : State} {p : ByteSeq} (hi : s.ph = .idle) (fits : p.length ≤ s.cfg.pcap.toNat)
    (mt : BitVec 8) (seq : BitVec 32) (sid : BitVec 64) : runActions (sendMacro mt seq sid p) s =
      .next ((((s.withPacket (packetHeader mt seq sid p) p).complete .ok).takeInput.emitOutput
        (hdrPack (packetHeader mt seq sid p) ++ p)).complete .ok) := by
  have stored : ((s.withPacket (packetHeader mt seq sid p) p).complete .ok).payload = some p :=
    s.withPacket_payload (packetHeader_payloadSize_toNat mt seq sid fits).symm
  rw [sendMacro, runActions_append (runActions_newMacro hi fits mt seq sid), runActions_singleton,
    perform_pktEnc_packet (State.complete_ph ..) rfl stored]
  rfl

end Sys2Proof.Machine

open Sys2Proof Sys2Proof.Machine

/-- Settles O29: `SEND` sends the header and the payload of the packet it builds; the header declares the payload's
length, so PKT.DEC takes its last step. -/
theorem packetRoundTrip : Obligations.PacketRoundTrip := by
  intro s mt seq sid p hi fits
  refine ⟨_, _, rfl, runActions_sendMacro hi fits mt seq sid, by simp [packetHeader], State.complete_ph .., rfl,
    fun r hr room => ?_⟩
  have declared : p.length = (packetHeader mt seq sid p).payloadSize.toNat :=
    (packetHeader_payloadSize_toNat mt seq sid room).symm
  exact ⟨_, perform_pktDec_packet hr declared room, rfl, rfl, rfl, r.withPacket_payload declared⟩

/-- Settles O30: a cut or a tail behind the header leaves the header whole and changes the candidate's length; a cut
into the header leaves fewer than 21 bytes. -/
theorem truncatedOrPaddedPacketIsRejected : Obligations.TruncatedOrPaddedPacketIsRejected := by
  intro s p r _ hp hr
  have declared : p.length = s.h.payloadSize.toNat := State.payload_length hp
  refine ⟨fun k hk hkp => ?_, fun tail htail => ?_, fun n hn => ?_⟩
  · have cut : (hdrPack s.h ++ p).take (21 + p.length - k) = hdrPack s.h ++ p.take (p.length - k) := by
      rw [Nat.add_sub_assoc hkp, ← hdrPack_length s.h, List.take_length_add_append]
    have shorter : (p.take (p.length - k)).length ≠ s.h.payloadSize.toNat := by
      rw [List.length_take]
      omega
    rw [cut]
    exact ⟨_, perform_pktDec_mismatch hr shorter, rfl, rfl⟩
  · have longer : (p ++ tail).length ≠ s.h.payloadSize.toNat := by
      have := List.length_pos_iff.2 htail
      rw [List.length_append]
      omega
    rw [List.append_assoc]
    exact ⟨_, perform_pktDec_mismatch hr longer, rfl, rfl⟩
  · have short : ((hdrPack s.h ++ p).take n).length < 21 := (List.length_take_le n _).trans_lt hn
    exact ⟨_, perform_pktDec_short hr short, rfl, rfl⟩

/-- Settles O17: 2^32 bytes are beyond every `PCAP`, so both ranges are one. -/
theorem pktNewRefusesBeyondTheEnvelope : Obligations.PktNewRefusesBeyondTheEnvelope := by
  rintro s hi (long | huge)
  · exact exec_pktNew_beyond hi long
  · exact exec_pktNew_beyond hi (s.cfg.pcap.isLt.trans_le huge)

/-- Settles O18: the next state of PKT.ENC from an idle block, as one whole-state equation with and without a
packet. -/
theorem pktEncEmitsThePacket : Obligations.PktEncEmitsThePacket := by
  refine ⟨rfl, fun s p hi hv hp => ?_, fun s hi hv => ?_⟩
  · rw [exec_pktEnc_packet hi hv hp, State.complete_idle (s := s.emitOutput _) hi]
    simp [State.emitOutput]
  · rw [exec_pktEnc_noPacket hi hv, State.raiseError_idle hi]
end

section
/-! PROOFS. The checksum (42_checksum.md R80 to R85): it depends on the byte sum only, where it first wraps, and that
`clear` and `absorb` compute it. -/

namespace Sys2Proof.Machine

/-! ## The byte sum -/

theorem checksum_toNat (bs : ByteSeq) : (checksum bs).toNat = (bs.map BitVec.toNat).sum % 2 ^ 32 :=
  BitVec.toNat_ofNat ..

theorem checksum_eq_of_sum_eq {bs cs : ByteSeq} (h : (bs.map BitVec.toNat).sum = (cs.map BitVec.toNat).sum) :
    checksum bs = checksum cs := congrArg (BitVec.ofNat 32) h

theorem checksum_append (bs cs : ByteSeq) : checksum (bs ++ cs) = checksum bs + checksum cs := by
  simp only [checksum, List.map_append, List.sum_append, BitVec.ofNat_add]

theorem checksum_perm {bs cs : ByteSeq} (h : bs.Perm cs) : checksum bs = checksum cs :=
  checksum_eq_of_sum_eq (h.map _).sum_eq

theorem checksum_replicate (n : Nat) (b : Byte) : checksum (List.replicate n b) = BitVec.ofNat 32 (n * b.toNat) := by
  rw [checksum, List.map_replicate, List.sum_replicate, smul_eq_mul]

theorem checksum_insert_zeros (bs cs : ByteSeq) (n : Nat) :
    checksum (bs ++ List.replicate n 0#8 ++ cs) = checksum (bs ++ cs) := by
  have zeros : checksum (List.replicate n 0#8) = 0#32 := checksum_replicate n 0#8
  simp only [checksum_append, zeros, BitVec.add_zero]

/-- A byte adds at most 255 (R85's bound). -/
theorem byteSum_le (bs : ByteSeq) : (bs.map BitVec.toNat).sum ≤ bs.length * 255 := by
  have byte_le : ∀ n ∈ bs.map BitVec.toNat, n ≤ 255 := by
    simp only [List.mem_map, forall_exists_index, and_imp, forall_apply_eq_imp_iff₂]
    exact fun b _ => Nat.le_of_lt_succ b.isLt
  simpa using List.sum_le_card_nsmul _ 255 byte_le

/-! ## `clear`, then `absorb` of each byte -/

/-- R82: the fold keeps `ACC` the checksum and `CNT` the saturated count of the bytes absorbed so far. -/
theorem State.foldl_absorb_clearSums (s : State) (bs : ByteSeq) :
    bs.foldl State.absorb s.clearSums = { s with acc := checksum bs, cnt := satCount bs.length } := by
  induction bs using List.reverseRecOn with
  | nil => rfl
  | append_singleton bs b ih =>
    rw [List.foldl_concat, ih, checksum_concat, List.length_append, List.length_singleton, ← satInc_satCount]
    rfl

/-- The addition of R82 on numbers: the byte widened, the sum cut to 32 bits. -/
theorem acc_add_byte (acc : BitVec 32) (b : Byte) : acc + b.setWidth 32 = BitVec.ofNat 32 (acc.toNat + b.toNat) := by
  rw [BitVec.ofNat_add, BitVec.ofNat_toNat, BitVec.setWidth_eq, BitVec.ofNat_toNat]

end Sys2Proof.Machine

open Sys2Proof.Machine

/-- Settles O11: the checksum is the byte sum cut to 32 bits, and bytes of value 0 add nothing to it. -/
theorem checksumDependsOnTheByteSumOnly : Obligations.ChecksumDependsOnTheByteSumOnly :=
  ⟨checksum_nil, by decide, by decide, checksum_toNat, checksum_append, fun _ _ => checksum_perm,
    checksum_insert_zeros, fun _ _ => checksum_eq_of_sum_eq⟩

/-- Settles O12: fewer than 16,843,010 bytes sum to at most 16,843,009 · 255 = 2^32 - 1. -/
theorem checksumFirstWrapsAt16843010Bytes : Obligations.ChecksumFirstWrapsAt16843010Bytes := by
  refine ⟨fun s short => ?_, checksum_replicate .., checksum_replicate ..⟩
  have no_wrap : (s.map BitVec.toNat).sum < 2 ^ 32 := by
    have := byteSum_le s
    omega
  rw [checksum_toNat, Nat.mod_eq_of_lt no_wrap]

/-- Settles O13: R82's induction over the bytes absorbed, from the last byte back. -/
theorem absorbingBytesComputesTheChecksum : Obligations.AbsorbingBytesComputesTheChecksum := by
  refine ⟨fun _ => rfl, fun s b => ?_, State.foldl_absorb_clearSums⟩
  rw [State.absorb, acc_add_byte, satInc]
end

section
/-! PROOFS. The result code that each command can end with (60_exceptions.md R118): for every command the cases of its
completion (`exec_next`), each with the code it writes. -/

namespace Sys2Proof.Machine

/-! ## Commands that take no packet from the slot -/

theorem exec_hdrEnc_err {s t : State} (h : exec .hdrEnc s = .next t) : t.err = .ok :=
  congrArg State.err (exec_next h).2

theorem exec_pktNew_err {s t : State} (h : exec .pktNew s = .next t) : t.err = .ok := by
  obtain ⟨-, -, rfl⟩ := exec_next h
  rfl

theorem exec_csum_err {s t : State} (h : exec .csum s = .next t) : t.err = .ok :=
  congrArg State.err (exec_next h).2

theorem exec_hdrDec_err {s t : State} (h : exec .hdrDec s = .next t) :
    t.err = if s.input.length < 21 then .insufficientBytes else .ok := by
  obtain ⟨-, ⟨short, rfl⟩ | ⟨long, rfl⟩⟩ := exec_next h
  · exact (if_pos short).symm
  · exact (if_neg long.not_gt).symm

/-- The source's order of the checks (R73): the 21 bytes of a header first, then the declared length. -/
theorem exec_pktDec_err {s t : State} (h : exec .pktDec s = .next t) :
    t.err = if s.input.length < 21 then .insufficientBytes
      else if s.input.length - 21 = (hdrUnpack (s.input.take 21)).payloadSize.toNat then .ok
      else .payloadSizeMismatch := by
  obtain ⟨-, ⟨short, rfl⟩ | ⟨long, _, rfl, checked⟩⟩ := exec_next h
  · exact (if_pos short).symm
  · rw [if_neg long.not_gt, ← slice_header, ← List.length_drop]
    obtain ⟨other, rfl⟩ | ⟨declared, -, rfl⟩ := checked
    · exact (if_neg other).symm
    · exact (if_pos declared).symm

/-! ## Commands on the packet in the slot -/

/-- The two commands differ in what they do with the packet, not in when they end with `OK`: a checksum that PKT.VFY
finds to differ is no error (R117). -/
theorem exec_slotCommand_err {i : Instr} {s t : State} (hi : i = .pktEnc ∨ i = .pktVfy) (h : exec i s = .next t) :
    t.err = if s.pv then .ok else .illegalCommand := by
  obtain rfl | rfl := hi
  all_goals
    obtain ⟨-, ⟨packet, _, -, rfl⟩ | ⟨noPacket, rfl⟩⟩ := exec_next h
    · exact (if_pos packet).symm
    · exact (if_neg (ne_true_of_eq_false noPacket)).symm

/-! ## Reserved words -/

theorem perform_command_reserved_err {s t : State} {cw : Byte} {e : DecodeError} (hd : decode cw = .error e)
    (h : perform (.command cw []) s = .next t) : t.err = .illegalCommand := by
  obtain ⟨-, ⟨i, hok, -⟩ | ⟨_, -, -, rfl⟩⟩ := command_next h
  · simp [hd] at hok
  · exact State.raiseError_err ..

end Sys2Proof.Machine

open Sys2Proof Sys2Proof.Machine

/-- Settles O31: R118's table, one row per command, and its row of the reserved words. -/
theorem resultCodeOfEachCommand : Obligations.ResultCodeOfEachCommand := by
  refine ⟨fun s t cw hcw h => ?_, fun i s t h => ?_⟩
  · obtain ⟨e, hd⟩ := (decode_error_iff cw).2 hcw
    exact perform_command_reserved_err hd h
  · cases i with
    | hdrEnc => exact exec_hdrEnc_err h
    | hdrDec => exact exec_hdrDec_err h
    | pktNew => exact exec_pktNew_err h
    | pktEnc => exact exec_slotCommand_err (.inl rfl) h
    | pktDec => exact exec_pktDec_err h
    | csum => exact exec_csum_err h
    | pktVfy => exact exec_slotCommand_err (.inr rfl) h
end

section
/-! PROOFS. The events of the byte-serial level (43_byte_serial_execution.md R91 to R99): what `START` of a command
with an input sequence does, and what `BYTE` and `END` do while one runs. -/

namespace Sys2Proof.Machine

variable {s : State}

/-! ## `START` -/

theorem perform_start_hdrDec (hi : s.ph = .idle) :
    perform (.start 0x02#8) s = .next { s with op := 2#3, idx := 0, ph := .run } := whenIdle_idle hi _

theorem perform_start_pktNew (hi : s.ph = .idle) : perform (.start 0x03#8) s = .next { s with
    op := 3#3, acc := 0#32, cnt := 0#33, pv := false, vok := false, pay := [], ph := .run } := whenIdle_idle hi _

theorem perform_start_pktDec (hi : s.ph = .idle) : perform (.start 0x05#8) s = .next { s with
    op := 5#3, idx := 0, acc := 0#32, cnt := 0#33, pv := false, vok := false, pay := [], ph := .run } :=
  whenIdle_idle hi _

theorem perform_start_csum (hi : s.ph = .idle) : perform (.start 0x06#8) s = .next { s with
    op := 6#3, acc := 0#32, cnt := 0#33, ph := .run } := whenIdle_idle hi _

/-! ## `BYTE` -/

theorem perform_byte_hdrDec (hr : s.ph = .run) (ho : s.op = 2#3) (b : Byte) :
    perform (.byte b) s = byteHdrDec b s := by simp [perform, byteEvent, hr, ho]

theorem perform_byte_pktNew (hr : s.ph = .run) (ho : s.op = 3#3) (b : Byte) :
    perform (.byte b) s = bytePktNew b s := by simp [perform, byteEvent, hr, ho]

theorem perform_byte_pktDec (hr : s.ph = .run) (ho : s.op = 5#3) (b : Byte) :
    perform (.byte b) s = bytePktDec b s := by simp [perform, byteEvent, hr, ho]

theorem perform_byte_csum (hr : s.ph = .run) (ho : s.op = 6#3) (b : Byte) :
    perform (.byte b) s = .next (s.absorb b) := by simp [perform, byteEvent, byteCsum, hr, ho]

/-- R97, R93: both decodes stage a byte that is not the header's last. -/
theorem perform_byte_stages (hr : s.ph = .run) (ho : s.op = 2#3 ∨ s.op = 5#3) (hx : s.idx < 20) (b : Byte) :
    perform (.byte b) s = .next (s.stageByte b) := by
  have phase : s.idx < hdrLen ∧ ¬ s.idx + 1 = hdrLen := by simp only [hdrLen_eq]; omega
  obtain ho | ho := ho
  · rw [perform_byte_hdrDec hr ho, byteHdrDec, if_pos phase.1, if_neg phase.2]
  · rw [perform_byte_pktDec hr ho, bytePktDec, if_pos phase.1, if_neg phase.2]

/-- The 21st byte completes the header of the 21 staged bytes. -/
theorem State.stagedHeader_stageByte {bs : ByteSeq} (hx : s.idx = 20) (hb : s.hbuf.readRange 0 20 = some bs)
    (b : Byte) : (s.stageByte b).stagedHeader = some (hdrUnpack (bs ++ [b])) := by
  have staged : (s.stageByte b).hbuf.readRange 0 hdrLen = some (bs ++ [b]) := by
    rw [State.stageByte_hbuf, hx]
    exact Memory.readRange_write b hb
  rw [State.stagedHeader, staged, Option.map_some]

/-- R93: the 21st byte of HDR.DEC. -/
theorem perform_byte_hdrDec_last (hr : s.ph = .run) (ho : s.op = 2#3) (hx : s.idx = 20) {b : Byte} {h : Header}
    (hh : (s.stageByte b).stagedHeader = some h) :
    perform (.byte b) s = .next ((s.stageByte b).loadHeader h).dropPacket := by
  simp [perform_byte_hdrDec hr ho, byteHdrDec, hx, hh]

/-- R97: the 21st byte of PKT.DEC. -/
theorem perform_byte_pktDec_last (hr : s.ph = .run) (ho : s.op = 5#3) (hx : s.idx = 20) {b : Byte} {h : Header}
    (hh : (s.stageByte b).stagedHeader = some h) :
    perform (.byte b) s = .next ((s.stageByte b).loadHeader h) := by
  simp [perform_byte_pktDec hr ho, bytePktDec, hx, hh]

/-- R93: HDR.DEC ignores what follows the header. -/
theorem perform_byte_hdrDec_trailing (hr : s.ph = .run) (ho : s.op = 2#3) (hx : 21 ≤ s.idx) (b : Byte) :
    perform (.byte b) s = .next s := by
  rw [perform_byte_hdrDec hr ho, byteHdrDec, if_neg (Nat.not_lt.2 hx)]

/-- R97: PKT.DEC stores and absorbs what follows the header. -/
theorem perform_byte_pktDec_payload (hr : s.ph = .run) (ho : s.op = 5#3) (hx : 21 ≤ s.idx) (b : Byte) :
    perform (.byte b) s = .next ((s.payWrite s.cnt.toNat b).absorb b) := by
  rw [perform_byte_pktDec hr ho, bytePktDec, if_neg (Nat.not_lt.2 hx)]

/-- R95: a byte of PKT.NEW that `PAY` has room for. -/
theorem perform_byte_pktNew_fits (hr : s.ph = .run) (ho : s.op = 3#3) (fits : s.cnt.toNat < s.cfg.pcap.toNat)
    (b : Byte) : perform (.byte b) s = .next ((s.payWrite s.cnt.toNat b).absorb b) := by
  rw [perform_byte_pktNew hr ho, bytePktNew, if_pos fits]

/-- R95: a byte of PKT.NEW too many. -/
theorem perform_byte_pktNew_beyond (hr : s.ph = .run) (ho : s.op = 3#3) (full : s.cfg.pcap.toNat ≤ s.cnt.toNat)
    (b : Byte) : perform (.byte b) s = .refused .newOutsideEnvelope := by
  rw [perform_byte_pktNew hr ho, bytePktNew, if_neg (Nat.not_lt.2 full)]

/-! ## `END` -/

theorem perform_endInput_hdrDec (hr : s.ph = .run) (ho : s.op = 2#3) : perform .endInput s =
    .next (s.complete (if s.idx < 21 then .insufficientBytes else .ok)) := by
  have selected : perform .endInput s = endHdrDec s := by simp [perform, endEvent, hr, ho]
  rw [selected, endHdrDec]
  split_ifs <;> rfl

theorem perform_endInput_pktNew (hr : s.ph = .run) (ho : s.op = 3#3) : perform .endInput s = .next
    ({ s with h := { s.h with payloadSize := s.cnt.setWidth 32, checksum := s.acc } }.holdPacket.complete .ok) := by
  simp [perform, endEvent, endPktNew, hr, ho]

/-- R98: the checks of `END` of PKT.DEC, the lengths compared as natural numbers. -/
theorem perform_endInput_pktDec (hr : s.ph = .run) (ho : s.op = 5#3) : perform .endInput s =
    if s.idx < 21 then .next (s.forgetBytes.raiseError .insufficientBytes)
    else if s.cnt.toNat ≠ s.h.payloadSize.toNat then .next (s.forgetBytes.raiseError .payloadSizeMismatch)
    else if s.cnt.toNat ≤ s.cfg.pcap.toNat then .next (s.holdPacket.complete .ok)
    else .refused .decOutsideEnvelope := by
  simp [perform, endEvent, endPktDec, cnt_eq_payloadSize, hr, ho]

theorem perform_endInput_csum (hr : s.ph = .run) (ho : s.op = 6#3) :
    perform .endInput s = .next (s.complete .ok) := by simp [perform, endEvent, endCsum, hr, ho]

end Sys2Proof.Machine

open Sys2Proof Sys2Proof.Machine

/-- Settles O39: R91's four rows. -/
theorem startOpensTheInputSequence : Obligations.StartOpensTheInputSequence := fun _ hi =>
  ⟨perform_start_hdrDec hi, perform_start_pktNew hi, perform_start_pktDec hi, perform_start_csum hi⟩

/-- Settles O40: header phase, the header's last byte, payload phase. -/
theorem decodeBytesAreStagedThenStored : Obligations.DecodeBytesAreStagedThenStored := by
  refine ⟨fun s b hr ho hx => perform_byte_stages hr ho hx b, fun s b bs hr hx hb => ?_, fun s b hr hx => ?_⟩
  · have hh := State.stagedHeader_stageByte hx hb b
    refine ⟨fun ho => ?_, fun ho => ?_⟩
    · rw [perform_byte_hdrDec_last hr ho hx hh]
      simp [State.stageByte, State.loadHeader, State.dropPacket, hx]
    · rw [perform_byte_pktDec_last hr ho hx hh]
      simp [State.stageByte, State.loadHeader, hx]
  · exact ⟨fun ho => perform_byte_hdrDec_trailing hr ho hx b, fun ho => perform_byte_pktDec_payload hr ho hx b⟩

/-- Settles O41: below `PCAP`, so below 2^32, `CNT` does not saturate. -/
theorem payloadBytesAreStoredAndAbsorbed : Obligations.PayloadBytesAreStoredAndAbsorbed := by
  refine fun s b hr => ⟨fun ho fits => ?_, fun ho full => perform_byte_pktNew_beyond hr ho full b,
    fun ho => perform_byte_csum hr ho b⟩
  have exact_count : satInc s.cnt = s.cnt + 1#33 := satInc_below _ (fits.trans s.cfg.pcap.isLt)
  rw [perform_byte_pktNew_fits hr ho fits, State.payWrite, if_pos fits, State.absorb, exact_count]

/-- Settles O42: R98's checks one after the other. -/
theorem endChoosesTheResult : Obligations.EndChoosesTheResult := by
  refine fun s hr => ⟨perform_endInput_hdrDec hr, fun ho => ?_, fun ho short => ?_, fun ho long other => ?_,
    fun ho long declared fits => ?_, perform_endInput_csum hr⟩
  · rw [perform_endInput_pktNew hr ho, BitVec.setWidth_eq_extractLsb' (by decide)]
    rfl
  · rw [perform_endInput_pktDec hr ho, if_pos short]
    rfl
  · rw [perform_endInput_pktDec hr ho, if_neg long.not_gt, if_pos other]
    rfl
  · rw [perform_endInput_pktDec hr ho, if_neg long.not_gt, if_neg (not_not_intro declared), if_pos fits]
    rfl
end

section
/-! PROOFS. The commands that decode, build, verify and sum (40_header_codec.md R66, 41_packet_codec.md R70 to R75,
42_checksum.md R81): the next state of each from an idle block, and what it can have done when it answers one. -/

namespace Sys2Proof.Machine

variable {s t : State}

/-! ## HDR.DEC -/

/-- R51: every sequence of 21 bytes or more is a header's bytes and what follows them. -/
theorem exists_hdrPack_append {bs : ByteSeq} (hn : 21 ≤ bs.length) : ∃ h rest, bs = hdrPack h ++ rest :=
  ⟨hdrUnpack (bs.take 21), bs.drop 21, by
    rw [hdrPack_hdrUnpack (List.length_take_of_le hn), List.take_append_drop]⟩

/-- R66: HDR.DEC of too few bytes for a header. -/
theorem exec_hdrDec_short (hi : s.ph = .idle) (short : s.input.length < 21) :
    exec .hdrDec s = .next (s.takeInput.raiseError .insufficientBytes) := by
  rw [exec, execHdrDec, whenIdle_idle hi, if_pos short]

/-- R66: HDR.DEC of a header's bytes, whatever follows them. -/
theorem exec_hdrDec_append {h : Header} {rest : ByteSeq} (hi : s.ph = .idle) (hin : s.input = hdrPack h ++ rest) :
    exec .hdrDec s = .next ((s.takeInput.loadHeader h).dropPacket.complete .ok) := by
  rw [exec_hdrDec_idle hi (by simp [hin]), ← slice_header, hin, hdrUnpack_slice_append]

/-! ## PKT.NEW and PKT.DEC -/

/-- What PKT.NEW can have done: the slot holds the packet it has built. -/
theorem exec_pktNew_next (h : exec .pktNew s = .next t) : s.input.length ≤ s.cfg.pcap.toNat ∧
    t = (s.withPacket (packetHeader s.h.messageType s.h.sequence s.h.senderId s.input) s.input).complete .ok := by
  obtain ⟨hi, fits, -⟩ := exec_next h
  rw [exec_pktNew_idle hi fits, Host.Outcome.next.injEq] at h
  exact ⟨fits, h.symm⟩

/-- What PKT.DEC can have done (R73), by what its input is. -/
theorem exec_pktDec_next (h : exec .pktDec s = .next t) :
    (s.input.length < 21 ∧ t = s.takeInput.dropPacket.clearSums.raiseError .insufficientBytes) ∨
    ∃ hd cand, s.input = hdrPack hd ++ cand ∧
      ((cand.length ≠ hd.payloadSize.toNat ∧ t = (s.withCandidate hd cand).raiseError .payloadSizeMismatch) ∨
        (cand.length = hd.payloadSize.toNat ∧ cand.length ≤ s.cfg.pcap.toNat ∧
          t = (s.withPacket hd cand).complete .ok)) := by
  obtain ⟨hi, ⟨short, rfl⟩ | ⟨long, -⟩⟩ := exec_next h
  · exact .inl ⟨short, rfl⟩
  · obtain ⟨hd, cand, hin⟩ := exists_hdrPack_append long
    refine .inr ⟨hd, cand, hin, ?_⟩
    by_cases declared : cand.length = hd.payloadSize.toNat
    · by_cases fits : cand.length ≤ s.cfg.pcap.toNat
      · rw [exec_pktDec_packet hi hin declared fits, Host.Outcome.next.injEq] at h
        exact .inr ⟨declared, fits, h.symm⟩
      · simp [exec_pktDec_append hi hin, declared, declared ▸ fits] at h
    · rw [exec_pktDec_mismatch hi hin declared, Host.Outcome.next.injEq] at h
      exact .inl ⟨declared, h.symm⟩

/-- R42: PKT.DEC of a candidate payload of the declared length that `PAY` cannot hold. -/
theorem exec_pktDec_beyond {h : Header} {cand : ByteSeq} (hi : s.ph = .idle) (hin : s.input = hdrPack h ++ cand)
    (declared : cand.length = h.payloadSize.toNat) (long : s.cfg.pcap.toNat < cand.length) :
    exec .pktDec s = .refused .decOutsideEnvelope := by
  rw [exec_pktDec_append hi hin, if_neg (not_not_intro declared), if_neg (Nat.not_le.2 long)]

/-! ## PKT.VFY and CSUM -/

/-- The block after PKT.VFY has summed the payload `p` and compared (R75). -/
def State.withVerdict (s : State) (p : ByteSeq) : State :=
  { s with acc := checksum p, cnt := s.h.payloadSize.setWidth 33, vok := decide (checksum p = s.h.checksum) }

/-- R75: PKT.VFY of the packet in the slot. -/
theorem exec_pktVfy_packet {p : ByteSeq} (hi : s.ph = .idle) (hv : s.pv = true) (hp : s.payload = some p) :
    exec .pktVfy s = .next ((s.withVerdict p).complete .ok) := by
  rw [exec, execPktVfy, whenIdle_idle hi, if_pos hv, hp]
  rfl

/-- R75: PKT.VFY without a packet. -/
theorem exec_pktVfy_noPacket (hi : s.ph = .idle) (hv : s.pv = false) :
    exec .pktVfy s = .next (s.raiseError .illegalCommand) := by
  rw [exec, execPktVfy, whenIdle_idle hi, hv]
  rfl

/-- R81: CSUM of any bytes. -/
theorem exec_csum_idle (hi : s.ph = .idle) : exec .csum s = .next
    ({ s.takeInput with acc := checksum s.input, cnt := satCount s.input.length }.complete .ok) := whenIdle_idle hi _

end Sys2Proof.Machine

open Sys2Proof Sys2Proof.Machine

/-- Settles O15: the two cases of R66, and that they cover every input. -/
theorem hdrDecReadsTheFirst21Bytes : Obligations.HdrDecReadsTheFirst21Bytes := by
  refine ⟨fun s hi short => ?_, fun s h rest hi hin => ?_, fun s long => exists_hdrPack_append long⟩
  · rw [exec_hdrDec_short hi short, State.raiseError_idle (s := s.takeInput) hi]
    rfl
  · rw [exec_hdrDec_append hi hin, State.complete_idle (s := (s.takeInput.loadHeader h).dropPacket) hi]
    rfl

/-- Settles O16: the next state of PKT.NEW as one whole-state equation. -/
theorem pktNewBuildsThePacket : Obligations.PktNewBuildsThePacket := by
  refine ⟨rfl, fun s hi fits => ?_⟩
  rw [exec_pktNew_idle hi fits, State.complete_idle (s := s.withPacket _ _) hi]
  rfl

/-- Settles O19: step 1 of R73. -/
theorem pktDecReportsInsufficientBytes : Obligations.PktDecReportsInsufficientBytes := by
  intro s hi short
  rw [exec_pktDec_short hi short, State.raiseError_idle (s := s.takeInput.dropPacket.clearSums) hi]
  rfl

/-- Settles O20: step 4 of R73. -/
theorem pktDecReportsPayloadSizeMismatch : Obligations.PktDecReportsPayloadSizeMismatch := by
  intro s h cand hi hin other
  rw [exec_pktDec_mismatch hi hin other, State.raiseError_idle (s := s.withCandidate h cand) hi]
  rfl

/-- Settles O21: step 5 of R73. -/
theorem pktDecAcceptsTheExactLength : Obligations.PktDecAcceptsTheExactLength := by
  intro s h cand hi hin declared fits
  rw [exec_pktDec_packet hi hin declared fits, State.complete_idle (s := s.withPacket h cand) hi]
  rfl

/-- Settles O22: of R73's three outcomes behind the header one is the refusal. -/
theorem pktDecRefusesOnlyBeyondTheEnvelope : Obligations.PktDecRefusesOnlyBeyondTheEnvelope := by
  intro s h cand hi hin
  by_cases declared : cand.length = h.payloadSize.toNat
  · obtain long | fits := Nat.lt_or_ge s.cfg.pcap.toNat cand.length
    · have refused := exec_pktDec_beyond hi hin declared long
      exact ⟨by simp [refused, declared, declared ▸ long], fun hne => absurd refused hne⟩
    · have accepted := exec_pktDec_packet hi hin declared fits
      exact ⟨by simp [accepted, fits], fun _ => ⟨_, accepted⟩⟩
  · have mismatch := exec_pktDec_mismatch hi hin declared
    exact ⟨by simp [mismatch, declared], fun _ => ⟨_, mismatch⟩⟩

/-- Settles O23: every step of R73 reads the declared length of the header and not its checksum. -/
theorem pktDecNeverLooksAtTheChecksum : Obligations.PktDecNeverLooksAtTheChecksum := by
  intro s h c cand t hi ht
  obtain ⟨short, -⟩ | ⟨hd, cand', hin, result⟩ := exec_pktDec_next ht
  · simp at short
  obtain ⟨packed, rfl⟩ := List.append_inj hin (by simp)
  obtain rfl : h = hd := by rw [← hdrUnpack_hdrPack h, packed, hdrUnpack_hdrPack]
  obtain ⟨other, rfl⟩ | ⟨declared, fits, rfl⟩ := result
  · exact exec_pktDec_mismatch (s := { s with input := _ }) (h := { h with checksum := c }) hi rfl other
  · exact exec_pktDec_packet (s := { s with input := _ }) (h := { h with checksum := c }) hi rfl declared fits

/-- Settles O24: PKT.VFY with and without a packet, as whole-state equations. -/
theorem pktVfyComparesTheChecksum : Obligations.PktVfyComparesTheChecksum := by
  refine ⟨rfl, fun s p hi hv hp => ?_, fun s hi hv => ?_⟩
  · rw [exec_pktVfy_packet hi hv hp, State.complete_idle (s := s.withVerdict p) hi]
    rfl
  · rw [exec_pktVfy_noPacket hi hv, State.raiseError_idle hi]

/-- Settles O25: the next state of CSUM as one whole-state equation. -/
theorem csumSumsAnyBytes : Obligations.CsumSumsAnyBytes := by
  refine ⟨rfl, fun s hi => ?_⟩
  rw [exec_csum_idle hi, State.complete_idle (s := { s.takeInput with acc := _, cnt := _ }) hi]
  rfl

/-- Settles O27: PKT.NEW writes into `H.CSUM` the checksum of the payload that PKT.VFY then finds in the slot. -/
theorem newPacketAlwaysVerifies : Obligations.NewPacketAlwaysVerifies := by
  intro s t _ ht
  obtain ⟨fits, rfl⟩ := exec_pktNew_next ht
  have declared := (packetHeader_payloadSize_toNat s.h.messageType s.h.sequence s.h.senderId fits).symm
  have stored := s.withPacket_payload declared
  exact ⟨_, exec_pktVfy_packet (State.complete_ph ..) rfl stored, decide_eq_true rfl, rfl⟩
end

section
/-! PROOFS. The command word and its `START` (30_encoding.md R55, R56; 43_byte_serial_execution.md R91, R100): which
word selects which command, and that the `START` of a command without an input sequence is the command. -/

namespace Sys2Proof

/-- The word's two fields make up the word (R55). -/
theorem zeroField_append_opField (cw : Byte) : (zeroField cw ++ opField cw : BitVec 8) = cw := by
  ext i hi
  simp only [zeroField, opField, BitVec.getElem_append, BitVec.getElem_extractLsb']
  split_ifs with low
  · simp [BitVec.getLsbD_eq_getElem hi]
  · simp [BitVec.getLsbD_eq_getElem hi, show 3 + (i - 3) = i by omega]

/-- R56: a command's word has `ZERO = 0` and the command's opcode. -/
theorem decode_ok_fields {cw : Byte} {i : Instr} (h : decode cw = .ok i) :
    zeroField cw = 0#5 ∧ opField cw = i.opcode := by
  rw [decode] at h
  split_ifs at h with hz
  refine ⟨not_not.1 hz, BitVec.eq_of_toNat_eq ?_⟩
  split at h <;> simp only [Except.ok.injEq, reduceCtorEq] at h <;> subst h <;> assumption

theorem decode_encode (i : Instr) : decode (encode i) = .ok i := by cases i <;> rfl

theorem decode_ok_iff (cw : Byte) (i : Instr) : decode cw = .ok i ↔ cw = encode i := by
  constructor
  · intro h
    obtain ⟨hz, ho⟩ := decode_ok_fields h
    rw [← zeroField_append_opField cw, hz, ho, encode]
  · rintro rfl
    exact decode_encode i

end Sys2Proof

namespace Sys2Proof.Machine

/-- R100: the `START` of a command without an input sequence is the command, with `OP` written: `OUT` byte by byte is
the output at once, `absorb` byte by byte the checksum. -/
theorem perform_start_immediate {cw : Byte} {i : Instr} (hd : decode cw = .ok i) (hn : i.takesInput = false)
    (s : State) : perform (.start cw) s = exec i { s with op := opField cw } := by
  cases i with
  | hdrDec | pktNew | pktDec | csum => simp [Instr.takesInput] at hn
  | hdrEnc =>
    simp only [perform, startEvent, hd, startHdrEnc, State.outBytes_eq]
    rfl
  | pktEnc =>
    simp only [perform, startEvent, hd, startPktEnc, State.outPayload_eq, State.outBytes_eq, exec, execPktEnc,
      State.payload]
    cases s.pay.readRange 0 s.h.payloadSize.toNat <;> simp [whenIdle, State.emitOutput, pktPack, State.emitEvent]
  | pktVfy =>
    simp only [perform, startEvent, hd, startPktVfy, State.absorbPayload_eq, State.foldl_absorb_clearSums, exec,
      execPktVfy, State.payload]
    cases hp : s.pay.readRange 0 s.h.payloadSize.toNat with
    | none => simp [whenIdle, hp]
    | some p =>
      have counted : satCount p.length = s.h.payloadSize.setWidth 33 := by
        rw [cnt_eq_payloadSize, satCount_toNat, (Memory.readRange_some.1 hp).1]
        omega
      simp [whenIdle, hp, counted]

end Sys2Proof.Machine

open Sys2Proof Sys2Proof.Machine

/-- Settles O5: the seven rows of R56 by evaluation. -/
theorem commandWordsOfTheOpcodeMap : Obligations.CommandWordsOfTheOpcodeMap := ⟨rfl, rfl, rfl, rfl, rfl, rfl, rfl⟩

/-- Settles O6: the word's fields determine it, and they are those of the encoding. -/
theorem decodeAndEncodeAgree : Obligations.DecodeAndEncodeAgree := fun i cw _ => decode_ok_iff cw i
end

section
/-! PROOFS. The invariant of Safety.lean (10_state.md R11 to R21): what it says of a block that stores nothing into
`PAY`, of a running PKT.NEW and of a running PKT.DEC; every action keeps it. -/

namespace Sys2Proof.Machine

/-! ## The parts of the invariant -/

/-- The staging buffer and the counters are in their ranges (R13, R17, R21), in every phase. -/
structure State.Bounded (s : State) : Prop where
  hbufCanonical : s.hbuf.wf
  hbufIndex : ∀ c ∈ s.hbuf, c.1 < hdrLen
  idxBound : s.idx ≤ hdrLen
  cntBound : s.cnt.toNat ≤ 2 ^ 32

/-- The slot is empty (R14, R18). -/
structure State.EmptySlot (s : State) : Prop where
  pv : s.pv = false
  vok : s.vok = false
  pay : s.pay = []

/-- The slot holds a packet: its payload is all there, fits, and verifies if `VOK` says so (R14, R18, R42). -/
structure State.FullSlot (s : State) : Prop where
  pv : s.pv = true
  filled : s.pay.map Prod.fst = List.range s.h.payloadSize.toNat
  fits : s.h.payloadSize.toNat ≤ s.cfg.pcap.toNat
  verifies : s.vok = true → checksum (s.pay.map Prod.snd) = s.h.checksum

/-- No command is filling the slot: it is empty or it holds a packet. -/
def State.SlotSettled (s : State) : Prop := s.EmptySlot ∨ s.FullSlot

/-- A running decode has staged `IDX` header bytes (R93, R97). -/
def State.Staged (s : State) : Prop := ∀ k < s.idx, (s.hbuf.read k).isSome

/-- A running PKT.NEW: `CNT` bytes stored and summed, no packet (R91, R95). -/
structure State.NewProgress (s : State) : Prop where
  ph : s.ph = .run
  op : s.op = 3#3
  pv : s.pv = false
  vok : s.vok = false
  filled : s.pay.map Prod.fst = List.range s.cnt.toNat
  fits : s.cnt.toNat ≤ s.cfg.pcap.toNat
  summed : s.acc = checksum (s.pay.map Prod.snd)

/-- A running PKT.DEC: the header bytes staged, those of `CNT` payload bytes stored that fit, no packet (R91, R97). -/
structure State.DecProgress (s : State) : Prop where
  ph : s.ph = .run
  op : s.op = 5#3
  pv : s.pv = false
  vok : s.vok = false
  filled : s.pay.map Prod.fst = List.range (min s.cnt.toNat s.cfg.pcap.toNat)
  cleared : s.idx < hdrLen → s.cnt = 0#33 ∧ s.acc = 0#32
  staged : s.Staged

/-- A block that stores nothing into `PAY`: idle, or it runs HDR.DEC or CSUM. -/
structure State.SlotProgress (s : State) : Prop where
  slot : s.SlotSettled
  op : s.ph = .run → s.op = 2#3 ∨ s.op = 6#3
  staged : s.ph = .run → s.op = 2#3 → s.Staged

theorem State.SlotProgress.of_idle {s : State} (hi : s.ph = .idle) (hs : s.SlotSettled) : s.SlotProgress :=
  ⟨hs, by simp [hi], by simp [hi]⟩

theorem State.SlotSettled.wf {s : State} : s.SlotSettled → s.pay.wf
  | .inl e => e.pay ▸ Memory.wf_nil
  | .inr f => Memory.filled_wf f.filled

/-- Without a packet nothing is verified. -/
theorem State.Inv.vok_false {s : State} (h : s.Inv) (hv : s.pv = false) : s.vok = false := by
  by_contra hk
  simp [(h.verifiedPacket (Bool.eq_true_of_not_eq_false hk)).1] at hv

theorem State.Inv.slotSettled {s : State} (h : s.Inv) (hr : ¬ s.receiving) : s.SlotSettled := by
  cases hv : s.pv with
  | false => exact .inl ⟨hv, h.vok_false hv, h.noPacketNoBytes hv hr⟩
  | true => exact .inr ⟨hv, (h.packetPayload hv).1, (h.packetPayload hv).2, fun hk => (h.verifiedPacket hk).2⟩

theorem State.Inv.bounded {s : State} (h : s.Inv) : s.Bounded :=
  ⟨h.hbufCanonical, h.hbufIndex, h.idxBound, h.cntBound⟩

/-- What a block with the invariant is doing. -/
theorem State.Inv.progress {s : State} (h : s.Inv) : s.SlotProgress ∨ s.NewProgress ∨ s.DecProgress := by
  by_cases hr : s.receiving
  · have hv := h.receivingNoPacket hr
    have hk := h.vok_false hv
    obtain ⟨hp, ho | ho⟩ := hr
    · obtain ⟨filled, fits, summed⟩ := h.newProgress hp ho
      exact .inr (.inl ⟨hp, ho, hv, hk, filled, fits, summed⟩)
    · obtain ⟨filled, cleared⟩ := h.decProgress hp ho
      exact .inr (.inr ⟨hp, ho, hv, hk, filled, cleared, h.staged hp (.inr ho)⟩)
  · refine .inl ⟨h.slotSettled hr, fun hp => ?_, fun hp ho => h.staged hp (.inl ho)⟩
    obtain ho | ho | ho | ho := h.runningCommand hp
    · exact .inl ho
    · exact absurd ⟨hp, .inl ho⟩ hr
    · exact absurd ⟨hp, .inr ho⟩ hr
    · exact .inr ho

theorem State.SlotProgress.inv {s : State} (p : s.SlotProgress) (b : s.Bounded) : s.Inv := by
  have op3 : s.ph = .run → s.op ≠ 3#3 := fun hp ho => by simpa [ho] using p.op hp
  have op5 : s.ph = .run → s.op ≠ 5#3 := fun hp ho => by simpa [ho] using p.op hp
  have not_receiving : ¬ s.receiving := fun ⟨hp, ho⟩ => ho.elim (op3 hp) (op5 hp)
  have runs : s.ph = .run → s.op = 2#3 ∨ s.op = 3#3 ∨ s.op = 5#3 ∨ s.op = 6#3 :=
    fun hp => (p.op hp).imp_right (.inr ∘ .inr)
  have staged : s.ph = .run → s.op = 2#3 ∨ s.op = 5#3 → s.Staged :=
    fun hp ho => p.staged hp (ho.resolve_right (op5 hp))
  obtain e | f := p.slot
  · exact ⟨p.slot.wf, b.hbufCanonical, b.hbufIndex, b.idxBound, b.cntBound, by simp [e.pv], by simp [e.vok],
      fun _ _ => e.pay, runs, fun hr => absurd hr not_receiving, fun hp ho => absurd ho (op3 hp),
      fun hp ho => absurd ho (op5 hp), staged⟩
  · exact ⟨p.slot.wf, b.hbufCanonical, b.hbufIndex, b.idxBound, b.cntBound, fun _ => ⟨f.filled, f.fits⟩,
      fun hk => ⟨f.pv, f.verifies hk⟩, by simp [f.pv], runs, fun hr => absurd hr not_receiving,
      fun hp ho => absurd ho (op3 hp), fun hp ho => absurd ho (op5 hp), staged⟩

theorem State.NewProgress.inv {s : State} (n : s.NewProgress) (b : s.Bounded) : s.Inv :=
  ⟨Memory.filled_wf n.filled, b.hbufCanonical, b.hbufIndex, b.idxBound, b.cntBound, by simp [n.pv], by simp [n.vok],
    fun _ hr => absurd ⟨n.ph, .inl n.op⟩ hr, fun _ => .inr (.inl n.op), fun _ => n.pv,
    fun _ _ => ⟨n.filled, n.fits, n.summed⟩, by simp [n.op], by simp [n.op]⟩

theorem State.DecProgress.inv {s : State} (d : s.DecProgress) (b : s.Bounded) : s.Inv :=
  ⟨Memory.filled_wf d.filled, b.hbufCanonical, b.hbufIndex, b.idxBound, b.cntBound, by simp [d.pv], by simp [d.vok],
    fun _ hr => absurd ⟨d.ph, .inr d.op⟩ hr, fun _ => .inr (.inr (.inl d.op)), fun _ => d.pv, by simp [d.op],
    fun _ _ => ⟨d.filled, d.cleared⟩, fun _ _ => d.staged⟩

theorem State.Inv.of_idle {s : State} (hb : s.Bounded) (hi : s.ph = .idle) (hs : s.SlotSettled) : s.Inv :=
  (SlotProgress.of_idle hi hs).inv hb

theorem State.Inv.slotSettled_of_idle {s : State} (h : s.Inv) (hi : s.ph = .idle) : s.SlotSettled :=
  h.slotSettled fun hr => nomatch hi.symm.trans hr.1

/-- The invariant does not speak of `ERR`, nor of the model's own records. -/
theorem State.Inv.with_records {s : State} (h : s.Inv) (e : ResultCode) (input : ByteSeq) (as : List Action)
    (em : List PortEvent) (n : Nat) :
    State.Inv { s with err := e, input := input, actions := as, emitted := em, draws := n } :=
  ⟨h.payCanonical, h.hbufCanonical, h.hbufIndex, h.idxBound, h.cntBound, h.packetPayload, h.verifiedPacket,
    h.noPacketNoBytes, h.runningCommand, h.receivingNoPacket, h.newProgress, h.decProgress, h.staged⟩

/-! ## Parts that an action leaves alone -/

theorem State.Bounded.of_hidden_eq {s u : State} (b : s.Bounded) (hh : u.hbuf = s.hbuf) (hx : u.idx = s.idx)
    (hc : u.cnt.toNat ≤ 2 ^ 32) : u.Bounded :=
  ⟨hh ▸ b.hbufCanonical, hh ▸ b.hbufIndex, hx ▸ b.idxBound, hc⟩

/-- What the packet slot is made of. -/
def State.slot (s : State) : Header × Bool × Bool × Memory × Config := (s.h, s.pv, s.vok, s.pay, s.cfg)

theorem State.SlotSettled.of_slot_eq {s u : State} (hs : s.SlotSettled) (he : u.slot = s.slot) : u.SlotSettled := by
  simp only [State.slot, Prod.mk.injEq] at he
  obtain ⟨hh, hv, hk, hp, hc⟩ := he
  refine hs.imp (fun e => ⟨hv ▸ e.pv, hk ▸ e.vok, hp ▸ e.pay⟩) fun f => ⟨hv ▸ f.pv, ?_, ?_, ?_⟩
  · rw [hp, hh, f.filled]
  · rw [hh, hc]
    exact f.fits
  · rw [hk, hp, hh]
    exact f.verifies

theorem State.SlotSettled.of_empty {s : State} (hv : s.pv = false) (hk : s.vok = false) (hp : s.pay = []) :
    s.SlotSettled := .inl ⟨hv, hk, hp⟩

/-! ## Commands -/

/-- A packet in the slot has its payload. -/
theorem State.FullSlot.payload {s : State} (f : s.FullSlot) : s.payload = some (s.pay.map Prod.snd) :=
  State.payload_filled f.filled

theorem State.SlotSettled.payload {s : State} (hs : s.SlotSettled) (hv : s.pv = true) :
    s.FullSlot ∧ s.payload = some (s.pay.map Prod.snd) := by
  obtain e | f := hs
  · simp [e.pv] at hv
  · exact ⟨f, f.payload⟩

/-- The packet that a command has just put into the slot. -/
theorem State.SlotSettled.withPacket (s : State) {h : Header} {p : ByteSeq} (declared : p.length = h.payloadSize.toNat)
    (fits : p.length ≤ s.cfg.pcap.toNat) : (s.withPacket h p).SlotSettled :=
  .inr ⟨rfl, (Memory.zip_filled p).1.trans (congrArg List.range declared), declared.symm.trans_le fits,
    by simp [State.withPacket]⟩

/-- A payload within `PCAP` is counted without wrapping. -/
theorem count_toNat_le {p : ByteSeq} {c : Config} (fits : p.length ≤ c.pcap.toNat) :
    (BitVec.ofNat 33 p.length).toNat ≤ 2 ^ 32 := by
  rw [BitVec.toNat_ofNat]
  exact (Nat.mod_le ..).trans (fits.trans c.pcap.isLt.le)

theorem satCount_toNat_le (n : Nat) : (satCount n).toNat ≤ 2 ^ 32 := (satCount_toNat n).trans_le (min_le_right ..)

/-- A command of an idle block leaves the hidden registers alone, the counter in its range and the slot settled. -/
theorem exec_keeps_inv {i : Instr} {s t : State} (inv : s.Inv) (h : exec i s = .next t) : t.Inv := by
  have hi := (exec_next h).1
  have b := inv.bounded
  have hs := inv.slotSettled_of_idle hi
  cases i with
  | hdrEnc =>
    obtain rfl : t = _ := (exec_next h).2
    exact .of_idle (b.of_hidden_eq rfl rfl b.cntBound) rfl (hs.of_slot_eq rfl)
  | hdrDec =>
    obtain ⟨-, ⟨-, rfl⟩ | ⟨-, rfl⟩⟩ := exec_next h
    · exact .of_idle (b.of_hidden_eq rfl rfl b.cntBound) rfl (hs.of_slot_eq rfl)
    · exact .of_idle (b.of_hidden_eq rfl rfl b.cntBound) rfl (.of_empty rfl rfl rfl)
  | pktNew =>
    obtain ⟨fits, rfl⟩ := exec_pktNew_next h
    have declared := (packetHeader_payloadSize_toNat s.h.messageType s.h.sequence s.h.senderId fits).symm
    exact .of_idle (b.of_hidden_eq rfl rfl (count_toNat_le fits)) rfl
      ((State.SlotSettled.withPacket s declared fits).of_slot_eq rfl)
  | pktEnc =>
    obtain ⟨-, ⟨-, _, -, rfl⟩ | ⟨-, rfl⟩⟩ := exec_next h
    · exact .of_idle (b.of_hidden_eq rfl rfl b.cntBound) rfl (hs.of_slot_eq rfl)
    · exact .of_idle (b.of_hidden_eq rfl rfl b.cntBound) rfl (hs.of_slot_eq rfl)
  | pktDec =>
    obtain ⟨-, rfl⟩ | ⟨hd, cand, -, ⟨-, rfl⟩ | ⟨declared, fits, rfl⟩⟩ := exec_pktDec_next h
    · exact .of_idle (b.of_hidden_eq rfl rfl (Nat.zero_le _)) rfl (.of_empty rfl rfl rfl)
    · exact .of_idle (b.of_hidden_eq rfl rfl (satCount_toNat_le _)) rfl (.of_empty rfl rfl rfl)
    · exact .of_idle (b.of_hidden_eq rfl rfl (count_toNat_le fits)) rfl
        ((State.SlotSettled.withPacket s declared fits).of_slot_eq rfl)
  | csum =>
    obtain rfl : t = _ := (exec_next h).2
    exact .of_idle (b.of_hidden_eq rfl rfl (satCount_toNat_le _)) rfl (hs.of_slot_eq rfl)
  | pktVfy =>
    obtain ⟨-, ⟨hv, p, hp, rfl⟩ | ⟨-, rfl⟩⟩ := exec_next h
    · obtain ⟨f, stored⟩ := hs.payload hv
      obtain rfl : p = _ := Option.some.inj (hp.symm.trans stored)
      have counted : (s.h.payloadSize.setWidth 33).toNat ≤ 2 ^ 32 :=
        ((cnt_eq_payloadSize _ _).1 rfl).trans_le s.h.payloadSize.isLt.le
      exact .of_idle (b.of_hidden_eq rfl rfl counted) rfl (.inr ⟨f.pv, f.filled, f.fits, of_decide_eq_true⟩)
    · exact .of_idle (b.of_hidden_eq rfl rfl b.cntBound) rfl (hs.of_slot_eq rfl)

/-! ## `START` -/

theorem start_keeps_inv {cw : Byte} {s t : State} (inv : s.Inv) (h : perform (.start cw) s = .next t) : t.Inv := by
  have hi := (start_next h).1
  have b := inv.bounded
  have hs := inv.slotSettled_of_idle hi
  have opened : State.Inv { s with op := opField cw } :=
    .of_idle (b.of_hidden_eq rfl rfl b.cntBound) hi (hs.of_slot_eq rfl)
  obtain ⟨-, ⟨e, -, rfl⟩ | ⟨i, hd, u, rfl, hu⟩⟩ := start_next h
  · exact .of_idle (b.of_hidden_eq rfl rfl b.cntBound) rfl (hs.of_slot_eq rfl)
  have ho := (decode_ok_fields hd).2
  cases hn : i.takesInput with
  | false => exact exec_keeps_inv opened ((perform_start_immediate hd hn s).symm.trans h)
  | true =>
    cases i with
    | hdrEnc | pktEnc | pktVfy => simp [Instr.takesInput] at hn
    | hdrDec =>
      subst hu
      exact State.SlotProgress.inv ⟨hs.of_slot_eq rfl, fun _ => .inl ho, fun _ _ _ hk => nomatch hk⟩
        ⟨b.hbufCanonical, b.hbufIndex, Nat.zero_le _, b.cntBound⟩
    | pktNew =>
      subst hu
      exact State.NewProgress.inv ⟨rfl, ho, rfl, rfl, rfl, Nat.zero_le _, rfl⟩
        (b.of_hidden_eq rfl rfl (Nat.zero_le _))
    | pktDec =>
      subst hu
      exact State.DecProgress.inv ⟨rfl, ho, rfl, rfl, by simp, fun _ => ⟨rfl, rfl⟩, fun _ hk => nomatch hk⟩
        ⟨b.hbufCanonical, b.hbufIndex, Nat.zero_le _, Nat.zero_le _⟩
    | csum =>
      subst hu
      exact State.SlotProgress.inv ⟨hs.of_slot_eq rfl, fun _ => .inr ho, fun _ h2 => nomatch ho.symm.trans h2⟩
        (b.of_hidden_eq rfl rfl (Nat.zero_le _))

/-! ## `BYTE` -/

theorem State.Inv.slotProgress {s : State} (h : s.Inv) (ho : s.op = 2#3 ∨ s.op = 6#3) : s.SlotProgress := by
  obtain p | n | d := h.progress
  · exact p
  · simp [n.op] at ho
  · simp [d.op] at ho

theorem State.Inv.pktNewProgress {s : State} (h : s.Inv) (hr : s.ph = .run) (ho : s.op = 3#3) : s.NewProgress := by
  obtain p | n | d := h.progress
  · simpa [ho] using p.op hr
  · exact n
  · simp [d.op] at ho

theorem State.Inv.pktDecProgress {s : State} (h : s.Inv) (hr : s.ph = .run) (ho : s.op = 5#3) : s.DecProgress := by
  obtain p | n | d := h.progress
  · simpa [ho] using p.op hr
  · simp [n.op] at ho
  · exact d

theorem State.Bounded.stageByte {s : State} (b : s.Bounded) (hx : s.idx < 21) (c : Byte) : (s.stageByte c).Bounded := by
  refine ⟨Memory.wf_write b.hbufCanonical _ _, fun d hd => ?_, hx, b.cntBound⟩
  obtain rfl | hd := Memory.mem_write hd
  · exact hx
  · exact b.hbufIndex d hd

theorem State.Staged.stageByte {s : State} (h : s.Staged) (c : Byte) : (s.stageByte c).Staged := by
  intro k hk
  rw [State.stageByte_hbuf, Memory.read_write]
  split_ifs with he
  · rfl
  · exact h k (by simp at hk; omega)

theorem satInc_toNat_le (c : BitVec 33) : (satInc c).toNat ≤ 2 ^ 32 := (satInc_toNat c).trans_le (min_le_right ..)

/-- A byte that `PAY` has room for, stored and absorbed by a running PKT.NEW. -/
theorem State.NewProgress.byte {s : State} (n : s.NewProgress) (room : s.cnt.toNat < s.cfg.pcap.toNat) (c : Byte) :
    ((s.payWrite s.cnt.toNat c).absorb c).NewProgress := by
  obtain ⟨filled, bytes⟩ := Memory.filled_write c n.filled
  have counted : (satInc s.cnt).toNat = s.cnt.toNat + 1 := by
    have := s.cfg.pcap.isLt
    rw [satInc_toNat]
    omega
  have stored : ((s.payWrite s.cnt.toNat c).absorb c).pay = s.pay.write s.cnt.toNat c := if_pos room
  refine ⟨n.ph, n.op, n.pv, n.vok, ?_, ?_, ?_⟩
  · rw [stored, filled, State.absorb_cnt, State.payWrite_cnt, counted]
  · exact counted.trans_le room
  · rw [stored, bytes, checksum_concat, ← n.summed]
    rfl

/-- A payload byte of a running PKT.DEC, stored if `PAY` has room, and absorbed. -/
theorem State.DecProgress.byte {s : State} (d : s.DecProgress) (hx : 21 ≤ s.idx) (c : Byte) :
    ((s.payWrite s.cnt.toNat c).absorb c).DecProgress := by
  refine ⟨d.ph, d.op, d.pv, d.vok, ?_, fun short => absurd hx short.not_ge, d.staged⟩
  have cap := s.cfg.pcap.isLt
  rw [State.absorb_pay, State.payWrite_pay, State.absorb_cnt, State.payWrite_cnt, satInc_toNat, State.absorb_cfg,
    State.payWrite_cfg]
  obtain room | full := Nat.lt_or_ge s.cnt.toNat s.cfg.pcap.toNat
  · have filled := d.filled
    rw [min_eq_left room.le] at filled
    rw [if_pos room, (Memory.filled_write c filled).1]
    congr 1
    omega
  · rw [if_neg full.not_gt, d.filled]
    congr 1
    omega

theorem byte_keeps_inv {c : Byte} {s t : State} (inv : s.Inv) (h : perform (.byte c) s = .next t) : t.Inv := by
  have b := inv.bounded
  obtain ⟨hr, ⟨ho, stages⟩ | ⟨ho, room, rfl⟩ | ⟨ho, stages⟩ | ⟨ho, rfl⟩⟩ := byte_next h
  · have p := inv.slotProgress (.inl ho)
    have staged := (p.staged hr ho).stageByte c
    obtain ⟨hx, rfl⟩ | ⟨-, rfl⟩ | ⟨hx, hd, -, rfl⟩ := stages
    · exact State.SlotProgress.inv ⟨p.slot.of_slot_eq rfl, fun _ => .inl ho, fun _ _ => staged⟩
        (b.stageByte (by omega) c)
    · exact inv
    · exact State.SlotProgress.inv ⟨.of_empty rfl rfl rfl, fun _ => .inl ho, fun _ _ => staged⟩
        ((b.stageByte (by omega) c).of_hidden_eq rfl rfl b.cntBound)
  · exact ((inv.pktNewProgress hr ho).byte room c).inv (b.of_hidden_eq rfl rfl (satInc_toNat_le _))
  · have d := inv.pktDecProgress hr ho
    have cleared (hx : s.idx < 21) : s.cnt = 0#33 ∧ s.acc = 0#32 := d.cleared hx
    obtain ⟨hx, rfl⟩ | ⟨hx, rfl⟩ | ⟨hx, hd, -, rfl⟩ := stages
    · exact State.DecProgress.inv
        ⟨d.ph, d.op, d.pv, d.vok, d.filled, fun _ => cleared (by omega), d.staged.stageByte c⟩
        (b.stageByte (by omega) c)
    · exact (d.byte hx c).inv (b.of_hidden_eq rfl rfl (satInc_toNat_le _))
    · exact State.DecProgress.inv
        ⟨d.ph, d.op, d.pv, d.vok, d.filled, fun _ => cleared (by omega), d.staged.stageByte c⟩
        ((b.stageByte (by omega) c).of_hidden_eq rfl rfl b.cntBound)
  · have p := inv.slotProgress (.inr ho)
    exact State.SlotProgress.inv ⟨p.slot.of_slot_eq rfl, fun _ => .inr ho, p.staged⟩
      (b.of_hidden_eq rfl rfl (satInc_toNat_le _))

/-! ## `END` -/

theorem endInput_keeps_inv {s t : State} (inv : s.Inv) (h : perform .endInput s = .next t) : t.Inv := by
  have b := inv.bounded
  obtain ⟨hr, ⟨ho, rfl⟩ | ⟨ho, rfl⟩ | ⟨ho, result⟩ | ⟨ho, rfl⟩⟩ := endInput_next h
  · exact .of_idle (b.of_hidden_eq rfl rfl b.cntBound) rfl ((inv.slotProgress (.inl ho)).slot.of_slot_eq rfl)
  · have n := inv.pktNewProgress hr ho
    have declared : (s.cnt.setWidth 32).toNat = s.cnt.toNat := by
      rw [BitVec.toNat_setWidth, Nat.mod_eq_of_lt (n.fits.trans_lt s.cfg.pcap.isLt)]
    exact .of_idle (b.of_hidden_eq rfl rfl b.cntBound) rfl
      (.inr ⟨rfl, n.filled.trans (congrArg List.range declared.symm), declared.trans_le n.fits,
        fun _ => n.summed.symm⟩)
  · have d := inv.pktDecProgress hr ho
    obtain ⟨-, rfl⟩ | ⟨-, -, rfl⟩ | ⟨-, declared, fits, rfl⟩ := result
    · exact .of_idle (b.of_hidden_eq rfl rfl b.cntBound) rfl (.of_empty d.pv d.vok rfl)
    · exact .of_idle (b.of_hidden_eq rfl rfl b.cntBound) rfl (.of_empty d.pv d.vok rfl)
    · have filled := d.filled
      rw [min_eq_left fits, declared] at filled
      exact .of_idle (b.of_hidden_eq rfl rfl b.cntBound) rfl
        (.inr ⟨rfl, filled, declared ▸ fits, fun hk => nomatch d.vok.symm.trans hk⟩)
  · exact .of_idle (b.of_hidden_eq rfl rfl b.cntBound) rfl ((inv.slotProgress (.inr ho)).slot.of_slot_eq rfl)

/-! ## Every action, every step -/

theorem State.inv_reset (c : Config) : State.Inv { State.reset with cfg := c } :=
  .of_idle ⟨Memory.wf_nil, by simp, Nat.zero_le _, Nat.zero_le _⟩ rfl (.of_empty rfl rfl rfl)

theorem perform_keeps_inv {a : Action} {s t : State} (inv : s.Inv) (h : perform a s = .next t) : t.Inv := by
  have b := inv.bounded
  cases a with
  | command cw input =>
    obtain ⟨hi, ⟨i, -, -, ht⟩ | ⟨e, -, -, rfl⟩⟩ := command_next h
    · exact exec_keeps_inv (inv.with_records s.err input s.actions s.emitted s.draws) ht
    · exact .of_idle (b.of_hidden_eq rfl rfl b.cntBound) rfl ((inv.slotSettled_of_idle hi).of_slot_eq rfl)
  | start cw => exact start_keeps_inv inv h
  | byte c => exact byte_keeps_inv inv h
  | endInput => exact endInput_keeps_inv inv h
  | rd r =>
    obtain rfl | ⟨-, -, rfl⟩ := rd_next h
    · exact inv.with_records s.err s.input s.actions _ s.draws
    · exact inv.with_records s.err s.input s.actions _ _
  | wr r v =>
    obtain ⟨hi, ⟨-, rfl⟩ | ⟨-, hd, rfl⟩⟩ := wr_next h
    · exact inv
    · exact .of_idle (b.of_hidden_eq rfl rfl b.cntBound) hi (.of_empty rfl rfl rfl)
  | rdp i =>
    obtain ⟨_, -, rfl⟩ | rfl := rdp_next h
    · exact inv.with_records s.err s.input s.actions _ s.draws
    · exact inv.with_records s.err s.input s.actions _ _
  | reset =>
    obtain rfl : _ = t := Host.Outcome.next.inj h
    exact (State.inv_reset s.cfg).with_records .ok [] s.actions s.emitted s.draws

end Sys2Proof.Machine

open Sys2Proof Sys2Proof.Machine

/-- Settles O50: no register and no buffer holds anything. -/
theorem invariantHoldsAtReset : Obligations.InvariantHoldsAtReset := State.inv_reset {}

/-- Settles O51: a step performs the next action, and every action keeps the invariant, by what the block is doing. -/
theorem everyStepKeepsTheInvariant : Obligations.EveryStepKeepsTheInvariant := by
  intro s t inv h
  rw [step] at h
  split at h
  · exact Host.Outcome.next.inj h ▸ inv
  · exact perform_keeps_inv (inv.with_records s.err s.input _ s.emitted s.draws) h

/-- Settles O52: the invariant's packet, read through the payload port's own range. -/
theorem validSlotHoldsAPacket : Obligations.ValidSlotHoldsAPacket := by
  intro s inv hv
  have stored := State.payload_filled (inv.packetPayload hv).1
  exact ⟨_, stored, State.payload_length stored, rfl⟩
end

section
/-! PROOFS. Progress (20_memory.md R36, R42, 60_exceptions.md R119, R124): in a state with the invariant every action
that the host's duties allow completes inside the envelope. -/

namespace Sys2Proof.Machine

variable {s : State}

/-! ## Command lines and `START` -/

theorem wellFormed_command_ok {cw : Byte} {input : ByteSeq} {i : Instr} (hd : decode cw = .ok i) :
    (Action.command cw input).wellFormed = true ↔ i.takesInput = true ∨ input = [] := by
  simp [Action.wellFormed, hd]

theorem wellFormed_command_reserved {cw : Byte} {input : ByteSeq} {e : DecodeError} (hd : decode cw = .error e) :
    (Action.command cw input).wellFormed = true ↔ input = [] := by
  simp [Action.wellFormed, hd]

/-- Whatever packet a command is to put into the slot fits into `PAY` (R42). -/
def State.roomFor (s : State) (i : Instr) : Prop :=
  match i with
  | .pktNew => s.input.length ≤ s.cfg.pcap.toNat
  | .pktDec => ∀ h cand, s.input = hdrPack h ++ cand → cand.length = h.payloadSize.toNat →
      cand.length ≤ s.cfg.pcap.toNat
  | .hdrEnc | .hdrDec | .pktEnc | .csum | .pktVfy => True

theorem State.roomFor_of_inEnvelope {i : Instr} {input : ByteSeq} (env : s.inEnvelope (.command (encode i) input)) :
    State.roomFor { s with input := input } i := by
  obtain ⟨new, dec⟩ := env
  cases i with
  | hdrEnc | hdrDec | pktEnc | csum | pktVfy => trivial
  | pktNew => exact new rfl
  | pktDec =>
    rintro h cand rfl declared
    have length : (hdrPack h ++ cand).length - hdrLen = cand.length := by simp
    rw [length, hdrUnpack_slice_append] at dec
    exact dec rfl (by simp) declared

theorem State.roomFor_of_noInput {i : Instr} (hn : i.takesInput = false) : s.roomFor i := by
  cases i with
  | hdrEnc | pktEnc | pktVfy => trivial
  | hdrDec | pktNew | pktDec | csum => simp [Instr.takesInput] at hn

/-- Every command of an idle block with a settled slot completes. -/
theorem exec_completes {i : Instr} (hi : s.ph = .idle) (hs : s.SlotSettled) (room : s.roomFor i) :
    ∃ t, exec i s = .next t := by
  cases i with
  | hdrEnc => exact ⟨_, exec_hdrEnc_idle hi⟩
  | hdrDec =>
    obtain short | long := Nat.lt_or_ge s.input.length 21
    · exact ⟨_, exec_hdrDec_short hi short⟩
    · exact ⟨_, exec_hdrDec_idle hi long⟩
  | pktNew => exact ⟨_, exec_pktNew_idle hi room⟩
  | pktEnc =>
    cases hv : s.pv with
    | true => exact ⟨_, exec_pktEnc_packet hi hv (hs.payload hv).2⟩
    | false => exact ⟨_, exec_pktEnc_noPacket hi hv⟩
  | pktDec =>
    obtain short | long := Nat.lt_or_ge s.input.length 21
    · exact ⟨_, exec_pktDec_short hi short⟩
    · obtain ⟨h, cand, hin⟩ := exists_hdrPack_append long
      by_cases declared : cand.length = h.payloadSize.toNat
      · exact ⟨_, exec_pktDec_packet hi hin declared (room h cand hin declared)⟩
      · exact ⟨_, exec_pktDec_mismatch hi hin declared⟩
  | csum => exact ⟨_, exec_csum_idle hi⟩
  | pktVfy =>
    cases hv : s.pv with
    | true => exact ⟨_, exec_pktVfy_packet hi hv (hs.payload hv).2⟩
    | false => exact ⟨_, exec_pktVfy_noPacket hi hv⟩

theorem command_completes {cw : Byte} {input : ByteSeq} (inv : s.Inv) (hi : s.ph = .idle)
    (hw : (Action.command cw input).wellFormed = true) (env : s.inEnvelope (.command cw input)) :
    ∃ t, perform (.command cw input) s = .next t := by
  cases hd : decode cw with
  | error e =>
    obtain rfl := (wellFormed_command_reserved hd).1 hw
    exact ⟨_, perform_command_reserved hi hd⟩
  | ok i =>
    rw [perform_command_ok hd ((wellFormed_command_ok hd).1 hw)]
    obtain rfl := (decode_ok_iff cw i).1 hd
    exact exec_completes hi ((inv.slotSettled_of_idle hi).of_slot_eq rfl) (State.roomFor_of_inEnvelope env)

theorem start_completes (inv : s.Inv) (hi : s.ph = .idle) (cw : Byte) : ∃ t, perform (.start cw) s = .next t := by
  cases hd : decode cw with
  | error e => exact ⟨_, perform_start_reserved hi hd⟩
  | ok i =>
    cases hn : i.takesInput with
    | false =>
      rw [perform_start_immediate hd hn]
      exact exec_completes hi ((inv.slotSettled_of_idle hi).of_slot_eq rfl) (State.roomFor_of_noInput hn)
    | true =>
      obtain rfl := (decode_ok_iff cw i).1 hd
      cases i with
      | hdrEnc | pktEnc | pktVfy => simp [Instr.takesInput] at hn
      | hdrDec => exact ⟨_, perform_start_hdrDec hi⟩
      | pktNew => exact ⟨_, perform_start_pktNew hi⟩
      | pktDec => exact ⟨_, perform_start_pktDec hi⟩
      | csum => exact ⟨_, perform_start_csum hi⟩

/-! ## `BYTE`, `END` and `RDP` -/

/-- When the 21st byte arrives all 21 have a value (R91, R93). -/
theorem State.Staged.stagedHeader (h : s.Staged) (hx : s.idx = 20) (b : Byte) :
    ∃ hd, (s.stageByte b).stagedHeader = some hd := by
  obtain ⟨bs, hb⟩ := Memory.readRange_isSome (m := s.hbuf) (i := 0) (n := 20) fun k hk => by
    simpa using h k (hk.trans_eq hx.symm)
  exact ⟨_, State.stagedHeader_stageByte hx hb b⟩

theorem byte_completes (inv : s.Inv) (hr : s.ph = .run) {b : Byte} (env : s.inEnvelope (.byte b)) :
    ∃ t, perform (.byte b) s = .next t := by
  obtain ho | ho | ho | ho := inv.runningCommand hr
  · obtain hx | hx | hx := Nat.lt_trichotomy s.idx 20
    · exact ⟨_, perform_byte_stages hr (.inl ho) hx b⟩
    · obtain ⟨hd, hh⟩ := ((inv.slotProgress (.inl ho)).staged hr ho).stagedHeader hx b
      exact ⟨_, perform_byte_hdrDec_last hr ho hx hh⟩
    · exact ⟨_, perform_byte_hdrDec_trailing hr ho hx b⟩
  · exact ⟨_, perform_byte_pktNew_fits hr ho (env hr ho) b⟩
  · obtain hx | hx | hx := Nat.lt_trichotomy s.idx 20
    · exact ⟨_, perform_byte_stages hr (.inr ho) hx b⟩
    · obtain ⟨hd, hh⟩ := (inv.pktDecProgress hr ho).staged.stagedHeader hx b
      exact ⟨_, perform_byte_pktDec_last hr ho hx hh⟩
    · exact ⟨_, perform_byte_pktDec_payload hr ho hx b⟩
  · exact ⟨_, perform_byte_csum hr ho b⟩

theorem endInput_completes (inv : s.Inv) (hr : s.ph = .run) (env : s.inEnvelope .endInput) :
    ∃ t, perform .endInput s = .next t := by
  obtain ho | ho | ho | ho := inv.runningCommand hr
  · exact ⟨_, perform_endInput_hdrDec hr ho⟩
  · exact ⟨_, perform_endInput_pktNew hr ho⟩
  · rw [perform_endInput_pktDec hr ho]
    split_ifs with short other fits
    · exact ⟨_, rfl⟩
    · exact ⟨_, rfl⟩
    · exact ⟨_, rfl⟩
    · exact absurd (env hr ho (not_lt.1 short) (not_not.1 other)) fits
  · exact ⟨_, perform_endInput_csum hr ho⟩

/-- R36: `RDP` of a byte of the packet in the slot. -/
theorem perform_rdp_packet {p : ByteSeq} {b : Byte} {i : Nat} (hi : s.ph = .idle) (hv : s.pv = true)
    (hp : s.payload = some p) (hb : p[i]? = some b) : perform (.rdp i) s = .next (s.answerByte b) := by
  obtain ⟨length, bytes⟩ := Memory.readRange_some.1 hp
  have hx : i < s.h.payloadSize.toNat := length ▸ (List.getElem?_eq_some_iff.1 hb).1
  have stored : s.pay.read i = some b := by rw [← hb, ← bytes i hx, Nat.zero_add]
  simp [perform, readPayloadAction, hi, hv, hx, stored]

/-- R36, R105: every other `RDP`. -/
theorem perform_rdp_free {i : Nat} (hf : ¬ (s.ph = .idle ∧ s.pv = true ∧ i < s.h.payloadSize.toNat)) :
    perform (.rdp i) s = .next (s.answerFreeByte i) := by
  rw [perform, readPayloadAction, if_neg hf]

/-- Below `H.PSZ` the payload has a byte. -/
theorem State.payload_getElem {p : ByteSeq} {i : Nat} (hp : s.payload = some p) (hx : i < s.h.payloadSize.toNat) :
    ∃ b, p[i]? = some b :=
  ⟨_, List.getElem?_eq_getElem ((State.payload_length hp).symm ▸ hx)⟩

theorem rdp_completes (inv : s.Inv) (i : Nat) : ∃ t, perform (.rdp i) s = .next t := by
  by_cases hx : s.ph = .idle ∧ s.pv = true ∧ i < s.h.payloadSize.toNat
  · obtain ⟨hi, hv, hx⟩ := hx
    have hp := State.payload_filled (inv.packetPayload hv).1
    obtain ⟨b, hb⟩ := State.payload_getElem hp hx
    exact ⟨_, perform_rdp_packet hi hv hp hb⟩
  · exact ⟨_, perform_rdp_free hx⟩

theorem rd_completes (r : Nat) : ∃ t, perform (.rd r) s = .next t := by
  rw [perform, readAction]
  split
  · exact ⟨_, rfl⟩
  · split_ifs <;> exact ⟨_, rfl⟩

end Sys2Proof.Machine

open Sys2Proof Sys2Proof.Machine

/-- Settles O53: the duties give the phase, the invariant the bytes that are read, the envelope the room for what is
stored. -/
theorem dutifulHostIsNeverStopped : Obligations.DutifulHostIsNeverStopped := by
  rintro a s inv ⟨hw, duty⟩ env
  cases a with
  | command cw input => exact command_completes inv duty hw env
  | start cw => exact start_completes inv duty cw
  | byte b => exact byte_completes inv duty env
  | endInput => exact endInput_completes inv duty env
  | rd r => exact rd_completes r
  | wr r v => exact ⟨_, perform_wr_idle duty r v⟩
  | rdp i => exact rdp_completes inv i
  | reset => exact ⟨_, rfl⟩

/-- Settles O36: the packet's payload is all there, so its bytes are read; any other read is free. -/
theorem payloadPortReadsThePacket : Obligations.PayloadPortReadsThePacket := by
  refine fun s i inv hi => ⟨fun ⟨hv, hx⟩ => ?_, fun hf => ⟨_, perform_rdp_free fun ⟨_, hx⟩ => hf hx⟩⟩
  have hp := State.payload_filled (inv.packetPayload hv).1
  obtain ⟨b, hb⟩ := State.payload_getElem hp hx
  exact ⟨_, b, hp, hb, perform_rdp_packet hi hv hp hb⟩

/-- Settles O2: after RESET the block is idle with the invariant, and a command line without input is inside every
envelope. -/
theorem resetActionAbandonsEverything : Obligations.ResetActionAbandonsEverything := by
  have no_flag : State.reset.status = 0#8 := rfl
  refine fun s => ⟨_, rfl, rfl, rfl, rfl, no_flag, rfl, rfl, rfl, rfl, Memory.read_nil, rfl, rfl, fun cw => ?_⟩
  have inv := (State.inv_reset s.cfg).with_records .ok [] s.actions s.emitted s.draws
  have hw : (Action.command cw []).wellFormed = true := by
    cases hd : decode cw with
    | ok i => exact (wellFormed_command_ok hd).2 (.inr rfl)
    | error e => exact (wellFormed_command_reserved hd).2 rfl
  exact command_completes inv rfl hw ⟨fun _ => Nat.zero_le _, fun _ _ _ => Nat.zero_le _⟩
end

section
/-! PROOFS. Completion (43_byte_serial_execution.md R102, 60_exceptions.md R113): every command that answers a next
state ends idle with one `DONE`, behind the output of a success and nothing else. -/

namespace Sys2Proof.Machine

/-- `t` is what a command that started in `s` leaves: idle, one `DONE` and it is last, output only with `OK`. -/
def State.CompletedFrom (t s : State) : Prop :=
  t.ph = .idle ∧ ∃ outs, t.emitted = s.emitted ++ outs ++ [.done] ∧ .done ∉ outs ∧ (t.err ≠ .ok → outs = [])

theorem State.CompletedFrom.silent {s u : State} (h : u.emitted = s.emitted) (c : ResultCode) :
    (u.complete c).CompletedFrom s :=
  ⟨rfl, [], by simp [h], by simp, fun _ => rfl⟩

theorem State.CompletedFrom.output (s : State) (out : ByteSeq) : ((s.emitOutput out).complete .ok).CompletedFrom s :=
  ⟨rfl, out.map .out ++ [.outEnd], by simp, by simp, fun h => absurd rfl h⟩

theorem exec_completedFrom {i : Instr} {s t : State} (h : exec i s = .next t) : t.CompletedFrom s := by
  cases i with
  | hdrEnc =>
    obtain rfl : t = _ := (exec_next h).2
    exact .output s _
  | hdrDec => obtain ⟨-, ⟨-, rfl⟩ | ⟨-, rfl⟩⟩ := exec_next h <;> exact .silent rfl _
  | pktNew =>
    obtain ⟨-, rfl⟩ := exec_pktNew_next h
    exact .silent rfl _
  | pktEnc =>
    obtain ⟨-, ⟨-, p, -, rfl⟩ | ⟨-, rfl⟩⟩ := exec_next h
    · exact .output s _
    · exact .silent rfl _
  | pktDec =>
    obtain ⟨-, rfl⟩ | ⟨hd, cand, -, ⟨-, rfl⟩ | ⟨-, -, rfl⟩⟩ := exec_pktDec_next h <;> exact .silent rfl _
  | csum =>
    obtain rfl : t = _ := (exec_next h).2
    exact .silent rfl _
  | pktVfy => obtain ⟨-, ⟨-, p, -, rfl⟩ | ⟨-, rfl⟩⟩ := exec_next h <;> exact .silent rfl _

theorem command_completedFrom {cw : Byte} {input : ByteSeq} {s t : State}
    (h : perform (.command cw input) s = .next t) : t.CompletedFrom s := by
  obtain ⟨-, ⟨i, -, -, ht⟩ | ⟨e, -, -, rfl⟩⟩ := command_next h
  · exact (exec_completedFrom ht :)
  · exact .silent rfl _

end Sys2Proof.Machine

open Sys2Proof Sys2Proof.Machine

/-- Settles O32: each command's completions, with output or silent. -/
theorem everyCommandEndsWithOneDone : Obligations.EveryCommandEndsWithOneDone :=
  fun _ _ _ _ h => command_completedFrom h
end

section
/-! PROOFS. The two levels agree (43_byte_serial_execution.md R103): what the bytes of an input sequence, one event at
a time, leave in a running command, by induction over the input; then `END` chooses what the command level chooses. -/

namespace Sys2Proof.Machine

/-! ## A running command -/

/-- The block `a` inside a command: only the hidden registers differ. -/
def State.inRun (a : State) (op : BitVec 3) (idx : Nat) (m : Memory) : State :=
  { a with ph := .run, op := op, idx := idx, hbuf := m }

/-- A payload byte of PKT.NEW or PKT.DEC, stored at index `CNT` and absorbed (R95, R97). -/
def State.storeByte (a : State) (b : Byte) : State := (a.payWrite a.cnt.toNat b).absorb b

variable {a s : State} {n : Nat} {m : Memory}

/-- Events whose first part answers a next state, then one event. -/
theorem runActions_bytes_snoc {bs : ByteSeq} {u v : State} (h : runActions (bs.map .byte) u = .next v) (b : Byte) :
    runActions ((bs ++ [b]).map .byte) u = perform (.byte b) v := by
  rw [List.map_append, runActions_append h, List.map_singleton, runActions_singleton]

theorem runActions_cons {e : Action} {u v : State} (h : perform e u = .next v) (es : List Action) :
    runActions (e :: es) u = runActions es v := by
  rw [runActions, h]

/-- A serial command line: its `START`, its bytes and its `END`. -/
theorem runActions_commandLine {cw : Byte} {input : ByteSeq} {s u v : State} (hs : perform (.start cw) s = .next u)
    (hb : runActions (input.map .byte) u = .next v) :
    runActions (.start cw :: (input.map .byte ++ [.endInput])) s = perform .endInput v :=
  (runActions_cons hs _).trans ((runActions_append hb _).trans (runActions_singleton ..))

/-! ## The bytes of CSUM -/

theorem runActions_bytes_csum (bs : ByteSeq) :
    runActions (bs.map .byte) (a.inRun 6#3 n m) = .next ((bs.foldl State.absorb a).inRun 6#3 n m) := by
  induction bs generalizing a with
  | nil => rfl
  | cons b bs ih =>
    rw [List.map_cons, runActions_cons (perform_byte_csum rfl rfl b)]
    exact ih (a := a.absorb b)

/-! ## The bytes of a payload -/

theorem State.payStore_concat (a : State) (i : Nat) (bs : ByteSeq) (b : Byte) :
    a.payStore i (bs ++ [b]) = (a.payStore i bs).payWrite (i + bs.length) b := by
  induction bs generalizing a i with
  | nil => rfl
  | cons c bs ih =>
    rw [List.cons_append, State.payStore, ih, State.payStore, List.length_cons, Nat.add_assoc, Nat.add_comm 1]

/-- Beyond 2^32, where `CNT` saturates, `PAY` has no room anyway (R5, R37). -/
theorem State.payWrite_satCount (a : State) (k : Nat) (b : Byte) :
    a.payWrite (satCount k).toNat b = a.payWrite k b := by
  have cap := a.cfg.pcap.isLt
  have same : (satCount k).toNat < a.cfg.pcap.toNat ↔ k < a.cfg.pcap.toNat := by
    rw [satCount_toNat]
    omega
  simp only [State.payWrite, same]
  split_ifs with room
  · rw [satCount_toNat, min_eq_left (by omega)]
  · rfl

/-- `clear`, then storing and absorbing each byte, is storing the sequence from index 0 and summing it. -/
theorem State.foldl_storeByte_clearSums (a : State) (bs : ByteSeq) : bs.foldl State.storeByte a.clearSums =
    { a.payStore 0 bs with acc := checksum bs, cnt := satCount bs.length } := by
  induction bs using List.reverseRecOn with
  | nil => rfl
  | append_singleton bs b ih =>
    rw [List.foldl_concat, ih, State.storeByte, State.payWrite_satCount, State.payStore_concat, checksum_concat,
      List.length_append, List.length_singleton, ← satInc_satCount, Nat.zero_add]
    rfl

/-- The same, with what does not change said of `a` itself. -/
theorem State.foldl_storeByte_clearSums_eq (a : State) (bs : ByteSeq) : bs.foldl State.storeByte a.clearSums =
    { a with pay := (a.payStore 0 bs).pay, acc := checksum bs, cnt := satCount bs.length } := by
  rw [State.foldl_storeByte_clearSums, State.payStore_eq]

/-- `a` after a payload that fits into `PAY` has been stored and summed. -/
def State.received (a : State) (p : ByteSeq) : State :=
  { a with acc := checksum p, cnt := BitVec.ofNat 33 p.length, pay := (List.range p.length).zip p }

theorem State.foldl_storeByte_fits (he : a.pay = []) {p : ByteSeq} (fits : p.length ≤ a.cfg.pcap.toNat) :
    p.foldl State.storeByte a.clearSums = a.received p := by
  rw [State.foldl_storeByte_clearSums, State.payStore_empty_eq a he fits,
    satCount_below (fits.trans a.cfg.pcap.isLt.le)]
  rfl

theorem State.storeByte_cnt (room : a.cnt.toNat < a.cfg.pcap.toNat) (b : Byte) :
    (a.storeByte b).cnt.toNat = a.cnt.toNat + 1 := by
  have cap := a.cfg.pcap.isLt
  rw [State.storeByte, State.absorb_cnt, State.payWrite_cnt, satInc_toNat]
  omega

/-- As long as `PAY` has room, PKT.NEW takes the bytes. -/
theorem runActions_bytes_pktNew {bs : ByteSeq} (room : a.cnt.toNat + bs.length ≤ a.cfg.pcap.toNat) :
    runActions (bs.map .byte) (a.inRun 3#3 n m) = .next ((bs.foldl State.storeByte a).inRun 3#3 n m) := by
  induction bs generalizing a with
  | nil => rfl
  | cons b bs ih =>
    rw [List.length_cons] at room
    have first : a.cnt.toNat < a.cfg.pcap.toNat := by omega
    rw [List.map_cons, runActions_cons (perform_byte_pktNew_fits (s := a.inRun 3#3 n m) rfl rfl first b)]
    refine ih (a := a.storeByte b) ?_
    rw [State.storeByte_cnt first]
    exact (Nat.add_right_comm ..).trans_le room

/-- Behind the header PKT.DEC takes every byte. -/
theorem runActions_bytes_pktDec (bs : ByteSeq) (hn : 21 ≤ n) :
    runActions (bs.map .byte) (a.inRun 5#3 n m) = .next ((bs.foldl State.storeByte a).inRun 5#3 n m) := by
  induction bs generalizing a with
  | nil => rfl
  | cons b bs ih =>
    rw [List.map_cons, runActions_cons (perform_byte_pktDec_payload rfl rfl hn b)]
    exact ih (a := a.storeByte b)

/-- Behind the header HDR.DEC ignores every byte. -/
theorem runActions_bytes_hdrDec (bs : ByteSeq) (hn : 21 ≤ n) :
    runActions (bs.map .byte) (a.inRun 2#3 n m) = .next (a.inRun 2#3 n m) := by
  induction bs with
  | nil => rfl
  | cons b bs ih =>
    rw [List.map_cons, runActions_cons (perform_byte_hdrDec_trailing rfl rfl hn b)]
    exact ih

/-! ## The bytes of a header -/

/-- Fewer than 21 bytes of a decode are staged in `HBUF`, in order. -/
theorem runActions_bytes_staged {op : BitVec 3} (ho : op = 2#3 ∨ op = 5#3) {bs : ByteSeq} (short : bs.length < 21) :
    ∃ m', runActions (bs.map .byte) (a.inRun op 0 m) = .next (a.inRun op bs.length m') ∧
      m'.readRange 0 bs.length = some bs := by
  induction bs using List.reverseRecOn with
  | nil => exact ⟨m, rfl, rfl⟩
  | append_singleton bs b ih =>
    rw [List.length_append, List.length_singleton] at short ⊢
    obtain ⟨m', run, read⟩ := ih (by omega)
    refine ⟨m'.write bs.length b, ?_, Memory.readRange_write b read⟩
    have staged : (a.inRun op bs.length m').idx < 20 := Nat.lt_of_succ_lt_succ short
    rw [runActions_bytes_snoc run, perform_byte_stages rfl ho staged]
    rfl

/-- With the 20 first bytes of a header staged, its last byte completes it. -/
theorem runActions_bytes_lastStaged {op : BitVec 3} (ho : op = 2#3 ∨ op = 5#3) (h : Header) :
    ∃ bs b m', hdrPack h = bs ++ [b] ∧ runActions (bs.map .byte) (a.inRun op 0 m) = .next (a.inRun op 20 m') ∧
      ((a.inRun op 20 m').stageByte b).stagedHeader = some h := by
  obtain nil | ⟨bs, b, packed⟩ := List.eq_nil_or_concat (hdrPack h)
  · simp [hdrPack] at nil
  rw [List.concat_eq_append] at packed
  have length : bs.length = 20 := by simpa [packed] using hdrPack_length h
  obtain ⟨m', run, read⟩ := runActions_bytes_staged (a := a) (m := m) ho (bs := bs) (by omega)
  rw [length] at run read
  refine ⟨bs, b, m', packed, run, ?_⟩
  rw [State.stagedHeader_stageByte rfl read, ← packed, hdrUnpack_hdrPack]

theorem runActions_bytes_hdrDec_header (h : Header) : ∃ m',
    runActions ((hdrPack h).map .byte) (a.inRun 2#3 0 m) = .next ((a.loadHeader h).dropPacket.inRun 2#3 21 m') := by
  obtain ⟨bs, b, m', packed, run, staged⟩ := runActions_bytes_lastStaged (a := a) (m := m) (.inl rfl) h
  refine ⟨m'.write 20 b, ?_⟩
  rw [packed, runActions_bytes_snoc run, perform_byte_hdrDec_last rfl rfl rfl staged]
  rfl

theorem runActions_bytes_pktDec_header (h : Header) : ∃ m',
    runActions ((hdrPack h).map .byte) (a.inRun 5#3 0 m) = .next ((a.loadHeader h).inRun 5#3 21 m') := by
  obtain ⟨bs, b, m', packed, run, staged⟩ := runActions_bytes_lastStaged (a := a) (m := m) (.inr rfl) h
  refine ⟨m'.write 20 b, ?_⟩
  rw [packed, runActions_bytes_snoc run, perform_byte_pktDec_last rfl rfl rfl staged]
  rfl

/-! ## Whole command lines -/

theorem serial_csum (hi : s.ph = .idle) (input : ByteSeq) : archOutcome (runActions (commandEvents 0x06#8 input) s) =
    archOutcome (exec .csum { s with input := input }) := by
  have start : perform (.start 0x06#8) s = .next (s.clearSums.inRun 6#3 s.idx s.hbuf) := perform_start_csum hi
  have line : runActions (commandEvents 0x06#8 input) s = _ :=
    runActions_commandLine start (runActions_bytes_csum input)
  rw [line, perform_endInput_csum rfl rfl, State.foldl_absorb_clearSums,
    exec_csum_idle (s := { s with input := input }) hi]
  rfl

/-- The first byte beyond `PCAP` stops PKT.NEW (R95), whatever follows it. -/
theorem runActions_bytes_pktNew_beyond {input : ByteSeq} (long : a.cfg.pcap.toNat < input.length) (as : List Action) :
    runActions (input.map .byte ++ as) (a.clearSums.inRun 3#3 n m) = .refused .newOutsideEnvelope := by
  obtain ⟨bs, b, rest, rfl, length⟩ : ∃ bs b rest, input = bs ++ b :: rest ∧ bs.length = a.cfg.pcap.toNat :=
    ⟨input.take a.cfg.pcap.toNat, input[a.cfg.pcap.toNat], input.drop (a.cfg.pcap.toNat + 1),
      by rw [← List.drop_eq_getElem_cons, List.take_append_drop], List.length_take_of_le long.le⟩
  have taken := runActions_bytes_pktNew (a := a.clearSums) (n := n) (m := m) (bs := bs)
    ((Nat.zero_add _).trans_le length.le)
  rw [State.foldl_storeByte_clearSums_eq] at taken
  have full : a.cfg.pcap.toNat ≤ (satCount bs.length).toNat := by
    have := a.cfg.pcap.isLt
    rw [satCount_toNat]
    omega
  rw [List.map_append, List.append_assoc, runActions_append taken, List.map_cons, List.cons_append, runActions,
    perform_byte_pktNew_beyond rfl rfl full]

theorem serial_pktNew (hi : s.ph = .idle) (input : ByteSeq) :
    archOutcome (runActions (commandEvents 0x03#8 input) s) =
      archOutcome (exec .pktNew { s with input := input }) := by
  have start : perform (.start 0x03#8) s = .next (s.dropPacket.clearSums.inRun 3#3 s.idx s.hbuf) :=
    perform_start_pktNew hi
  obtain long | fits := Nat.lt_or_ge s.cfg.pcap.toNat input.length
  · have line : runActions (commandEvents 0x03#8 input) s = .refused .newOutsideEnvelope :=
      (runActions_cons start _).trans (runActions_bytes_pktNew_beyond (a := s.dropPacket) long _)
    rw [line, exec_pktNew_beyond (s := { s with input := input }) hi long]
  · have line : runActions (commandEvents 0x03#8 input) s = _ :=
      runActions_commandLine start (runActions_bytes_pktNew ((Nat.zero_add _).trans_le fits))
    rw [State.foldl_storeByte_fits (a := s.dropPacket) rfl fits, perform_endInput_pktNew rfl rfl] at line
    rw [line, exec_pktNew_idle (s := { s with input := input }) hi fits]
    simp [State.received, State.inRun, State.withPacket, packetHeader, archOutcome, State.arch, State.complete,
      State.holdPacket, State.dropPacket]

/-- A decode of fewer than 21 bytes reaches its `END` with them staged and nothing else done. -/
theorem runActions_decode_short {cw : Byte} {op : BitVec 3} (ho : op = 2#3 ∨ op = 5#3) {input : ByteSeq}
    (short : input.length < 21) (start : perform (.start cw) s = .next (a.inRun op 0 m)) :
    ∃ m', runActions (.start cw :: (input.map .byte ++ [.endInput])) s =
      perform .endInput (a.inRun op input.length m') := by
  obtain ⟨m', run, -⟩ := runActions_bytes_staged (a := a) (m := m) ho short
  exact ⟨m', runActions_commandLine start run⟩

theorem serial_hdrDec (hi : s.ph = .idle) (input : ByteSeq) :
    archOutcome (runActions (commandEvents 0x02#8 input) s) =
      archOutcome (exec .hdrDec { s with input := input }) := by
  have start : perform (.start 0x02#8) s = .next (s.inRun 2#3 0 s.hbuf) := perform_start_hdrDec hi
  obtain short | long := Nat.lt_or_ge input.length 21
  · obtain ⟨m', line⟩ := runActions_decode_short (.inl rfl) short start
    have short' : (s.inRun 2#3 input.length m').idx < 21 := short
    rw [exec_hdrDec_short (s := { s with input := input }) hi short]
    refine (congrArg archOutcome line).trans ?_
    rw [perform_endInput_hdrDec rfl rfl, if_pos short']
    rfl
  · obtain ⟨h, rest, rfl⟩ := exists_hdrPack_append long
    obtain ⟨m', header⟩ := runActions_bytes_hdrDec_header (a := s) (m := s.hbuf) h
    have bytes : runActions ((hdrPack h ++ rest).map .byte) (s.inRun 2#3 0 s.hbuf) =
        .next ((s.loadHeader h).dropPacket.inRun 2#3 21 m') := by
      rw [List.map_append, runActions_append header]
      exact runActions_bytes_hdrDec rest le_rfl
    have line : runActions (commandEvents 0x02#8 (hdrPack h ++ rest)) s = _ := runActions_commandLine start bytes
    rw [line, perform_endInput_hdrDec rfl rfl, exec_hdrDec_append (s := { s with input := hdrPack h ++ rest }) hi rfl]
    rfl

/-- `END` of PKT.DEC with the header complete and a candidate payload counted: the comparisons of R98 on `CNT`,
saturated, come out as those of R73 on the candidate's length. -/
theorem perform_endInput_pktDec_counted (hr : s.ph = .run) (ho : s.op = 5#3) (hx : 21 ≤ s.idx) {k : Nat}
    (hc : s.cnt = satCount k) : perform .endInput s =
      if k ≠ s.h.payloadSize.toNat then .next (s.forgetBytes.raiseError .payloadSizeMismatch)
      else if k ≤ s.cfg.pcap.toNat then .next (s.holdPacket.complete .ok)
      else .refused .decOutsideEnvelope := by
  have psz := s.h.payloadSize.isLt
  have cap := s.cfg.pcap.isLt
  have same_length : min k (2 ^ 32) = s.h.payloadSize.toNat ↔ k = s.h.payloadSize.toNat := by omega
  have same_room : min k (2 ^ 32) ≤ s.cfg.pcap.toNat ↔ k ≤ s.cfg.pcap.toNat := by omega
  rw [perform_endInput_pktDec hr ho, if_neg hx.not_gt, hc, satCount_toNat]
  simp only [ne_eq, same_length, same_room]

theorem serial_pktDec (hi : s.ph = .idle) (input : ByteSeq) :
    archOutcome (runActions (commandEvents 0x05#8 input) s) =
      archOutcome (exec .pktDec { s with input := input }) := by
  have start : perform (.start 0x05#8) s = .next (s.dropPacket.clearSums.inRun 5#3 0 s.hbuf) :=
    perform_start_pktDec hi
  obtain short | long := Nat.lt_or_ge input.length 21
  · obtain ⟨m', line⟩ := runActions_decode_short (.inr rfl) short start
    have short' : (s.dropPacket.clearSums.inRun 5#3 input.length m').idx < 21 := short
    rw [exec_pktDec_short (s := { s with input := input }) hi short]
    refine (congrArg archOutcome line).trans ?_
    rw [perform_endInput_pktDec rfl rfl, if_pos short']
    rfl
  · obtain ⟨h, cand, rfl⟩ := exists_hdrPack_append long
    obtain ⟨m', header⟩ := runActions_bytes_pktDec_header (a := s.dropPacket.clearSums) (m := s.hbuf) h
    have bytes : runActions ((hdrPack h ++ cand).map .byte) (s.dropPacket.clearSums.inRun 5#3 0 s.hbuf) =
        .next ((cand.foldl State.storeByte (s.dropPacket.loadHeader h).clearSums).inRun 5#3 21 m') := by
      rw [List.map_append, runActions_append header]
      exact runActions_bytes_pktDec cand le_rfl
    have line : runActions (commandEvents 0x05#8 (hdrPack h ++ cand)) s = _ := runActions_commandLine start bytes
    rw [State.foldl_storeByte_clearSums_eq, perform_endInput_pktDec_counted rfl rfl le_rfl rfl] at line
    rw [line]
    by_cases declared : cand.length = h.payloadSize.toNat
    · obtain long | fits := Nat.lt_or_ge s.cfg.pcap.toNat cand.length
      · rw [exec_pktDec_beyond (s := { s with input := hdrPack h ++ cand }) hi rfl declared long]
        exact congrArg archOutcome ((if_neg (not_not_intro declared)).trans (if_neg long.not_ge))
      · rw [exec_pktDec_packet (s := { s with input := hdrPack h ++ cand }) hi rfl declared fits]
        refine (congrArg archOutcome ((if_neg (not_not_intro declared)).trans (if_pos fits))).trans ?_
        rw [State.payStore_empty (s.dropPacket.loadHeader h) cand rfl fits,
          satCount_below (fits.trans s.cfg.pcap.isLt.le)]
        rfl
    · rw [exec_pktDec_mismatch (s := { s with input := hdrPack h ++ cand }) hi rfl declared]
      exact (congrArg archOutcome (if_pos declared)).trans rfl

/-! ## Commands without an input sequence -/

/-- A command that takes no input reads neither `OP` nor the input field, and leaves both where no one sees them. -/
theorem archOutcome_exec_hidden {i : Instr} (hn : i.takesInput = false) (op : BitVec 3) (input : ByteSeq) :
    archOutcome (exec i { s with op := op, input := input }) = archOutcome (exec i s) := by
  have payload : State.payload { s with op := op, input := input } = s.payload := rfl
  cases i with
  | hdrDec | pktNew | pktDec | csum => simp [Instr.takesInput] at hn
  | hdrEnc =>
    simp only [exec, execHdrEnc, whenIdle]
    split <;> rfl
  | pktEnc =>
    simp only [exec, execPktEnc, whenIdle, payload]
    split
    · split
      · split <;> rfl
      · rfl
    · rfl
  | pktVfy =>
    simp only [exec, execPktVfy, whenIdle, payload]
    split
    · split
      · split <;> rfl
      · rfl
    · rfl

theorem serial_immediate {i : Instr} (hn : i.takesInput = false) :
    archOutcome (runActions (commandEvents (encode i) []) s) = archOutcome (exec i { s with input := [] }) := by
  have events : commandEvents (encode i) [] = [.start (encode i)] := by
    simp [commandEvents, decode_encode, hn]
  rw [events, runActions_singleton, perform_start_immediate (decode_encode i) hn]
  exact (archOutcome_exec_hidden hn (opField (encode i)) s.input).trans (archOutcome_exec_hidden hn s.op []).symm

/-- R103, the equality of the two levels. -/
theorem serial_eq_command {cw : Byte} {input : ByteSeq} (hi : s.ph = .idle)
    (hw : (Action.command cw input).wellFormed = true) :
    archOutcome (runActions (commandEvents cw input) s) = archOutcome (perform (.command cw input) s) := by
  cases hd : decode cw with
  | error e =>
    obtain rfl := (wellFormed_command_reserved hd).1 hw
    have events : commandEvents cw [] = [.start cw] := by simp [commandEvents, hd]
    rw [events, runActions_singleton, perform_start_reserved hi hd, perform_command_reserved hi hd]
  | ok i =>
    have takes := (wellFormed_command_ok hd).1 hw
    rw [perform_command_ok hd takes]
    obtain rfl := (decode_ok_iff cw i).1 hd
    cases i with
    | hdrEnc | pktEnc | pktVfy =>
      obtain rfl : input = [] := by simpa [Instr.takesInput] using takes
      exact serial_immediate rfl
    | hdrDec => exact serial_hdrDec hi input
    | pktNew => exact serial_pktNew hi input
    | pktDec => exact serial_pktDec hi input
    | csum => exact serial_csum hi input

/-- An outcome with the architectural part of a next state is a next state with that part. -/
theorem archOutcome_next {o : Host.Outcome State Fault Refusal} {u : State}
    (h : archOutcome o = archOutcome (.next u)) : ∃ t, o = .next t ∧ t.arch = u.arch := by
  cases o with
  | next t => exact ⟨t, rfl, Host.Outcome.next.inj h⟩
  | fault e => cases h
  | refused e => cases h

end Sys2Proof.Machine

open Sys2Proof Sys2Proof.Machine

/-- Settles O43: the equality of the two levels, with the progress of the command level inside the envelope. -/
theorem byteSerialLevelAgreesWithCommandLevel : Obligations.ByteSerialLevelAgreesWithCommandLevel := by
  intro s cw input hi hw
  have agree := serial_eq_command hi hw
  refine ⟨agree, fun inv env => ?_⟩
  obtain ⟨u, hu⟩ := command_completes inv hi hw env
  obtain ⟨t, run, same⟩ := archOutcome_next (agree.trans (congrArg archOutcome hu))
  exact ⟨t, run, (congrArg State.ph same).trans (command_completedFrom hu).1⟩
end

section
/-! PROOFS. The ports (10_state.md R15, R19, R22, 60_exceptions.md R104, R105): the bits of `STATUS`, reads and writes
of registers, and the host actions that the protocol does not have. -/

namespace Sys2Proof.Machine

variable {s : State}

/-! ## `STATUS` -/

/-- `STATUS` as a word of its flags (R15). -/
def statusWord (err : BitVec 2) (pv vok busy : Bool) : BitVec 8 :=
  0#3 ++ (BitVec.ofBool busy ++ (BitVec.ofBool vok ++ (BitVec.ofBool pv ++ err)))

theorem State.status_eq (s : State) : s.status = statusWord s.err.bits s.pv s.vok s.busy := rfl

/-- Where each flag stands: 4 codes and 8 combinations of flags. -/
theorem statusWord_bits : ∀ (err : BitVec 2) (pv vok busy : Bool),
    (statusWord err pv vok busy).extractLsb' 0 2 = err ∧ (statusWord err pv vok busy).getLsbD 2 = pv ∧
    (statusWord err pv vok busy).getLsbD 3 = vok ∧ (statusWord err pv vok busy).getLsbD 4 = busy ∧
    (statusWord err pv vok busy).extractLsb' 5 3 = 0#3 := by decide

theorem State.busy_iff (s : State) : s.busy = true ↔ s.ph ≠ .idle := by
  cases h : s.ph <;> simp [State.busy, h]

/-! ## `RD` and `WR` -/

theorem perform_rd_idle (hi : s.ph = .idle) (r : Nat) :
    perform (.rd r) s = .next (s.answerWord (s.readRegister r)) := by
  simp [perform, readAction, hi]

theorem perform_rd_status (hr : s.ph = .run) :
    perform (.rd 7) s = .next (s.answerWord (s.status.setWidth 64)) := by
  simp [perform, readAction, State.readRegister, hr]

theorem perform_rd_busy {r : Nat} (hr : s.ph = .run) (h7 : r ≠ 7) :
    perform (.rd r) s = .next (s.answerFreeWord r) := by
  simp [perform, readAction, hr, h7]

/-- R22's table of what `RD` returns. -/
theorem State.readRegister_table (s : State) (r : Nat) : s.readRegister r =
    if r = 0 then s.h.messageType.setWidth 64 else if r = 1 then s.h.sequence.setWidth 64
    else if r = 2 then s.h.senderId else if r = 3 then s.h.payloadSize.setWidth 64
    else if r = 4 then s.h.checksum.setWidth 64 else if r = 5 then s.acc.setWidth 64
    else if r = 6 then s.cnt.setWidth 64 else if r = 7 then s.status.setWidth 64 else 0#64 := by
  obtain hr | hr := Nat.lt_or_ge r 8
  · interval_cases r <;> rfl
  · have absent : ∀ k < 8, r ≠ k := by omega
    simp [State.readRegister_absent s hr, absent]

/-! ## Actions outside the protocol -/

theorem perform_start_run (hr : s.ph = .run) (cw : Byte) : perform (.start cw) s = .refused .startWhileBusy :=
  whenIdle_run hr _

theorem exec_run (hr : s.ph = .run) (i : Instr) : exec i s = .refused .startWhileBusy := by
  cases i <;> exact whenIdle_run hr _

theorem perform_command_run (hr : s.ph = .run) (cw : Byte) (input : ByteSeq) :
    perform (.command cw input) s = .refused .startWhileBusy := by
  rw [perform, commandAction]
  split
  · split_ifs
    · exact exec_run (s := { s with input := input }) hr _
    · exact whenIdle_run hr _
  · exact whenIdle_run hr _

theorem perform_wr_run (hr : s.ph = .run) (r : Nat) (v : BitVec 64) :
    perform (.wr r v) s = .refused .writeWhileBusy := by
  simp [perform, writeAction, hr]

theorem perform_byte_idle (hi : s.ph = .idle) (b : Byte) : perform (.byte b) s = .refused .byteWhileIdle := by
  simp [perform, byteEvent, hi]

theorem perform_endInput_idle (hi : s.ph = .idle) : perform .endInput s = .refused .endWhileIdle := by
  simp [perform, endEvent, hi]

/-- Bytes given to a word that takes none (log 11). -/
theorem perform_command_illFormed {cw : Byte} {input : ByteSeq} (hi : s.ph = .idle)
    (hw : (Action.command cw input).wellFormed = false) :
    perform (.command cw input) s = .refused .byteWhileIdle := by
  rw [Action.wellFormed] at hw
  rw [perform, commandAction]
  cases hd : decode cw with
  | ok i =>
    obtain ⟨noInput, some⟩ : i.takesInput = false ∧ input ≠ [] := by simpa [hd] using hw
    simp [noInput, some, hi]
  | error e =>
    have some : input ≠ [] := by simpa [hd] using hw
    simp [some, hi]

end Sys2Proof.Machine

open Sys2Proof Sys2Proof.Machine

/-- Settles O33: the flags of `STATUS` are the bits of its word. -/
theorem statusBitsAreTheFlags : Obligations.StatusBitsAreTheFlags := by
  intro s
  obtain ⟨err, pv, vok, busy, rest⟩ := statusWord_bits s.err.bits s.pv s.vok s.busy
  rw [State.status_eq]
  refine ⟨err.trans ?_, pv, vok, ?_, rest⟩
  · cases s.err <;> rfl
  · rw [busy]
    exact s.busy_iff

/-- Settles O34: `RD` by R22's table, `WR` register by register. -/
theorem registerPortReadsAndWrites : Obligations.RegisterPortReadsAndWrites := by
  have low8 (v : BitVec 64) : v.setWidth 8 = v.extractLsb' 0 8 := BitVec.setWidth_eq_extractLsb' (by decide)
  have low32 (v : BitVec 64) : v.setWidth 32 = v.extractLsb' 0 32 := BitVec.setWidth_eq_extractLsb' (by decide)
  refine fun s hi => ⟨fun r => ?_, fun v => ?_⟩
  · rw [perform_rd_idle hi, State.readRegister_table]
    rfl
  · refine ⟨?_, ?_, ?_, ?_, ?_, fun r hr => by rw [perform_wr_idle hi, State.writeRegister_readOnly s hr]⟩
    all_goals
      rw [perform_wr_idle hi, State.writeRegister]
      simp only [State.dropPacket, low8, low32]

/-- Settles O35: `STATUS` is read while busy; every other read is free. -/
theorem readsWhileBusy : Obligations.ReadsWhileBusy := by
  refine fun s hr => ⟨⟨perform_rd_status hr, ?_⟩, fun r h7 => ⟨_, perform_rd_busy hr h7⟩,
    fun i => ⟨_, perform_rdp_free fun h => by simp [hr] at h⟩⟩
  rw [State.status_eq, (statusWord_bits ..).2.2.2.1]
  simp [State.busy, hr]

/-- Settles O37: each action by the phase that it does not have. -/
theorem actionsOutsideTheProtocolAreRefused : Obligations.ActionsOutsideTheProtocolAreRefused :=
  ⟨fun _ cw input hr => ⟨perform_start_run hr cw, perform_command_run hr cw input⟩,
    fun _ r v hr => perform_wr_run hr r v, fun _ b hi => ⟨perform_byte_idle hi b, perform_endInput_idle hi⟩,
    fun _ _ _ hi hw => perform_command_illFormed hi hw⟩

/-- Settles O38: the write empties the slot, and PKT.ENC of an empty slot raises its error. -/
theorem headerWriteDestroysThePacket : Obligations.HeaderWriteDestroysThePacket := by
  intro s r v hi hr
  have written := perform_wr_idle hi r v
  obtain ⟨-, ⟨hr5, -⟩ | ⟨-, h, dropped⟩⟩ := wr_next written
  · omega
  rw [dropped] at written
  exact ⟨_, (runActions_cons written _).trans ((runActions_singleton ..).trans
    ((perform_command_ok rfl (.inr rfl) _).trans (exec_pktEnc_noPacket hi rfl))), rfl, rfl, rfl⟩
end

section
/-! PROOFS. Steps (20_memory.md R38, 70_reset_and_hazards.md R142): a step performs the next pending action, and no
action reads or changes what is pending, so that as many steps as there are actions run the whole list. -/

namespace Sys2Proof.Machine

/-! ## The pending actions are not read -/

/-- The block with another list of pending actions. -/
def State.withActions (s : State) (as : List Action) : State := { s with actions := as }

/-- The same for the next state of an outcome. -/
def pending (as : List Action) (o : Host.Outcome State Fault Refusal) : Host.Outcome State Fault Refusal :=
  match o with
  | .next t => .next (t.withActions as)
  | .fault r => .fault r
  | .refused r => .refused r

variable (s : State) (as : List Action)

theorem pending_ite (c : Prop) [Decidable c] (o o' : Host.Outcome State Fault Refusal) :
    pending as (if c then o else o') = if c then pending as o else pending as o' := apply_ite ..

theorem pending_whenIdle (o : Host.Outcome State Fault Refusal) :
    pending as (whenIdle s o) = whenIdle (s.withActions as) (pending as o) := by
  cases hp : s.ph with
  | idle => rw [whenIdle_idle hp, whenIdle_idle (s := s.withActions as) hp]
  | run => rw [whenIdle_run hp, whenIdle_run (s := s.withActions as) hp, pending]

/-! ### Commands -/

theorem exec_pktNew_withActions : exec .pktNew (s.withActions as) = pending as (exec .pktNew s) := by
  cases hp : s.ph with
  | run => rw [exec_run hp, exec_run (s := s.withActions as) hp, pending]
  | idle =>
    obtain long | fits := Nat.lt_or_ge s.cfg.pcap.toNat s.input.length
    · rw [exec_pktNew_beyond hp long, exec_pktNew_beyond (s := s.withActions as) hp long, pending]
    · rw [exec_pktNew_idle hp fits, exec_pktNew_idle (s := s.withActions as) hp fits]
      rfl

theorem exec_pktDec_withActions : exec .pktDec (s.withActions as) = pending as (exec .pktDec s) := by
  cases hp : s.ph with
  | run => rw [exec_run hp, exec_run (s := s.withActions as) hp, pending]
  | idle =>
    obtain short | long := Nat.lt_or_ge s.input.length 21
    · rw [exec_pktDec_short hp short, exec_pktDec_short (s := s.withActions as) hp short]
      rfl
    · obtain ⟨h, cand, hin⟩ := exists_hdrPack_append long
      by_cases declared : cand.length = h.payloadSize.toNat
      · obtain long | fits := Nat.lt_or_ge s.cfg.pcap.toNat cand.length
        · rw [exec_pktDec_beyond hp hin declared long, exec_pktDec_beyond (s := s.withActions as) hp hin declared long,
            pending]
        · rw [exec_pktDec_packet hp hin declared fits, exec_pktDec_packet (s := s.withActions as) hp hin declared fits]
          rfl
      · rw [exec_pktDec_mismatch hp hin declared, exec_pktDec_mismatch (s := s.withActions as) hp hin declared]
        rfl

theorem exec_withActions (i : Instr) : exec i (s.withActions as) = pending as (exec i s) := by
  have payload : (s.withActions as).payload = s.payload := rfl
  cases i with
  | hdrEnc =>
    rw [exec, exec, execHdrEnc, execHdrEnc, pending_whenIdle]
    rfl
  | hdrDec =>
    rw [exec, exec, execHdrDec, execHdrDec, pending_whenIdle, pending_ite]
    rfl
  | pktNew => exact exec_pktNew_withActions s as
  | pktEnc =>
    rw [exec, exec, execPktEnc, execPktEnc, pending_whenIdle, pending_ite, payload]
    cases s.payload <;> rfl
  | pktDec => exact exec_pktDec_withActions s as
  | csum =>
    rw [exec, exec, execCsum, execCsum, pending_whenIdle]
    rfl
  | pktVfy =>
    rw [exec, exec, execPktVfy, execPktVfy, pending_whenIdle, pending_ite, payload]
    cases s.payload <;> rfl

theorem commandAction_withActions (cw : Byte) (input : ByteSeq) :
    commandAction cw input (s.withActions as) = pending as (commandAction cw input s) := by
  rw [commandAction, commandAction]
  split
  · rw [pending_ite, pending_whenIdle, ← exec_withActions]
    rfl
  · rw [pending_whenIdle, pending_ite]
    rfl

/-! ### Events -/

theorem perform_start_withActions (cw : Byte) :
    perform (.start cw) (s.withActions as) = pending as (perform (.start cw) s) := by
  cases hd : decode cw with
  | error e =>
    simp only [perform, startEvent, hd, pending_whenIdle]
    rfl
  | ok i =>
    cases hn : i.takesInput with
    | false =>
      rw [perform_start_immediate hd hn, perform_start_immediate hd hn, ← exec_withActions]
      rfl
    | true =>
      cases i with
      | hdrEnc | pktEnc | pktVfy => simp [Instr.takesInput] at hn
      | hdrDec | pktNew | pktDec | csum =>
        simp only [perform, startEvent, hd, pending_whenIdle]
        rfl

theorem byteHdrDec_withActions (b : Byte) : byteHdrDec b (s.withActions as) = pending as (byteHdrDec b s) := by
  have staged : ((s.withActions as).stageByte b).stagedHeader = (s.stageByte b).stagedHeader := rfl
  rw [byteHdrDec, byteHdrDec, pending_ite, pending_ite, staged]
  cases (s.stageByte b).stagedHeader <;> rfl

theorem bytePktDec_withActions (b : Byte) : bytePktDec b (s.withActions as) = pending as (bytePktDec b s) := by
  have staged : ((s.withActions as).stageByte b).stagedHeader = (s.stageByte b).stagedHeader := rfl
  rw [bytePktDec, bytePktDec, pending_ite, pending_ite, staged]
  cases (s.stageByte b).stagedHeader <;> rfl

theorem bytePktNew_withActions (b : Byte) : bytePktNew b (s.withActions as) = pending as (bytePktNew b s) := by
  rw [bytePktNew, bytePktNew, pending_ite]
  rfl

theorem byteEvent_withActions (b : Byte) : byteEvent b (s.withActions as) = pending as (byteEvent b s) := by
  have same_ph : (s.withActions as).ph = s.ph := rfl
  have same_op : (s.withActions as).op = s.op := rfl
  rw [byteEvent, byteEvent, same_ph, same_op]
  split
  · rfl
  · split
    · exact byteHdrDec_withActions s as b
    · exact bytePktNew_withActions s as b
    · exact bytePktDec_withActions s as b
    · rfl
    · rfl

theorem endHdrDec_withActions : endHdrDec (s.withActions as) = pending as (endHdrDec s) := by
  rw [endHdrDec, endHdrDec, pending_ite]
  rfl

theorem endPktDec_withActions : endPktDec (s.withActions as) = pending as (endPktDec s) := by
  rw [endPktDec, endPktDec, pending_ite, pending_ite, pending_ite]
  rfl

theorem endEvent_withActions : endEvent (s.withActions as) = pending as (endEvent s) := by
  have same_ph : (s.withActions as).ph = s.ph := rfl
  have same_op : (s.withActions as).op = s.op := rfl
  rw [endEvent, endEvent, same_ph, same_op]
  split
  · rfl
  · split
    · exact endHdrDec_withActions s as
    · rfl
    · exact endPktDec_withActions s as
    · rfl
    · rfl

/-! ### Ports -/

theorem readAction_withActions (r : Nat) : readAction r (s.withActions as) = pending as (readAction r s) := by
  have same_ph : (s.withActions as).ph = s.ph := rfl
  have same_register : (s.withActions as).readRegister r = s.readRegister r := by
    rw [State.readRegister_table, State.readRegister_table]
    rfl
  rw [readAction, readAction, same_ph, same_register]
  split
  · rfl
  · rw [pending_ite]
    rfl

theorem writeAction_withActions (r : Nat) (v : BitVec 64) :
    writeAction r v (s.withActions as) = pending as (writeAction r v s) := by
  have same_ph : (s.withActions as).ph = s.ph := rfl
  have written : (s.withActions as).writeRegister r v = (s.writeRegister r v).withActions as := by
    unfold State.writeRegister
    split <;> rfl
  rw [writeAction, writeAction, same_ph, written]
  split <;> rfl

theorem readPayloadAction_withActions (i : Nat) :
    readPayloadAction i (s.withActions as) = pending as (readPayloadAction i s) := by
  have same_pay : (s.withActions as).pay = s.pay := rfl
  rw [readPayloadAction, readPayloadAction, pending_ite, same_pay]
  cases s.pay.read i <;> rfl

/-- R124: what is still pending does not matter to the action that is performed. -/
theorem perform_withActions (a : Action) : perform a (s.withActions as) = pending as (perform a s) := by
  cases a with
  | command cw input => exact commandAction_withActions s as cw input
  | start cw => exact perform_start_withActions s as cw
  | byte b => exact byteEvent_withActions s as b
  | endInput => exact endEvent_withActions s as
  | rd r => exact readAction_withActions s as r
  | wr r v => exact writeAction_withActions s as r v
  | rdp i => exact readPayloadAction_withActions s as i
  | reset => rfl

/-! ## A step -/

theorem step_cons {s : State} {a : Action} {rest : List Action} (h : s.actions = a :: rest) :
    step s = perform a (s.withActions rest) := by
  rw [step, h]
  rfl

theorem core_run_next {M : Host.Core} {s t : M.State} (h : M.step s = .next t) (k : Nat) :
    M.run (k + 1) s = M.run k t := by simp only [Host.Core.run, h]

theorem core_run_fault {M : Host.Core} {s : M.State} {r : M.Fault} (h : M.step s = .fault r) (k : Nat) :
    M.run (k + 1) s = .fault r := by simp only [Host.Core.run, h]

theorem core_run_refused {M : Host.Core} {s : M.State} {r : M.Refusal} (h : M.step s = .refused r) (k : Nat) :
    M.run (k + 1) s = .refused r := by simp only [Host.Core.run, h]

/-- As many steps as there are pending actions are those actions, one after the other. -/
theorem run_core_eq_runActions {as : List Action} {s : State} (h : s.actions = as) :
    Host.Core.run core as.length s = runActions as (s.withActions []) := by
  induction as generalizing s with
  | nil => exact congrArg Host.Outcome.next (by rw [State.withActions, ← h])
  | cons a rest ih =>
    have one : step s = pending rest (perform a s) := (step_cons h).trans (perform_withActions ..)
    rw [List.length_cons, runActions, perform_withActions]
    cases ha : perform a s with
    | next t =>
      rw [ha] at one
      exact (core_run_next (M := core) one _).trans (ih (s := t.withActions rest) rfl)
    | fault r =>
      rw [ha] at one
      exact core_run_fault (M := core) one _
    | refused r =>
      rw [ha] at one
      exact core_run_refused (M := core) one _

theorem decodeTableWord_some {w : Nat} {i : Instr} (h : decodeTableWord 8 w = some i) :
    decode (BitVec.ofNat 8 w) = .ok i := by
  rw [decodeTableWord] at h
  split_ifs at h with hw
  cases hd : decode (BitVec.ofNat 8 w) with
  | ok j => simpa [decodeBytes, hd] using h
  | error e => simp [decodeBytes, hd] at h

end Sys2Proof.Machine

open Sys2Proof Sys2Proof.Machine

/-- Settles O3: a step performs the next action, and a well-formed command line is its command. -/
theorem stepRunsTheDecodedCommand : Obligations.StepRunsTheDecodedCommand := by
  refine ⟨fun s cw input rest i ha hd _ hw => ?_, fun s w i hd => ?_⟩
  · rw [step_cons ha, perform_command_ok hd ((wellFormed_command_ok hd).1 hw)]
    rfl
  · exact (step_cons rfl).trans (perform_command_ok (decodeTableWord_some hd) (.inr rfl) _)

/-- Settles O4: with nothing pending a step is no change; otherwise induction over the pending actions. -/
theorem stepsRunThePendingActionsInOrder : Obligations.StepsRunThePendingActionsInOrder := by
  refine ⟨fun s h => ?_, fun s => run_core_eq_runActions rfl⟩
  rw [step, h]
end

section
/-! PROOFS. Rules of the whole machine (10_state.md R12 to R18, 43_byte_serial_execution.md R106,
70_reset_and_hazards.md R137, R140): what a command, a `START`, a `BYTE`, an `END` and an action at a port can do to the
flags, the counters and the record, said once each; every rule is then a case analysis over the actions. -/

namespace Sys2Proof.Machine

variable {s t : State}

/-! ## The effect of each kind of action -/

/-- What a command can do to the flags and the counters. -/
structure CommandEffect (i : Instr) (s t : State) : Prop where
  cfg : t.cfg = s.cfg
  pv : t.pv = true → s.pv = true ∨ (t.err = .ok ∧ (i = .pktNew ∨ i = .pktDec))
  vok : t.vok = true → t.h = s.h ∧ (s.vok = true ∨ i = .pktVfy)
  sums : (t.acc = s.acc ∧ t.cnt = s.cnt) ∨ i = .pktNew ∨ i = .pktDec ∨ i = .csum ∨ i = .pktVfy

/-- A completion that touches neither the slot nor the counters. -/
theorem CommandEffect.of_unchanged {i : Instr} (hc : t.cfg = s.cfg) (hh : t.h = s.h) (hv : t.pv = s.pv)
    (hk : t.vok = s.vok) (ha : t.acc = s.acc) (hn : t.cnt = s.cnt) : CommandEffect i s t :=
  ⟨hc, fun h => .inl (hv ▸ h), fun h => ⟨hh, .inl (hk ▸ h)⟩, .inl ⟨ha, hn⟩⟩

theorem exec_effect {i : Instr} (h : exec i s = .next t) : CommandEffect i s t := by
  cases i with
  | hdrEnc =>
    obtain rfl : t = _ := (exec_next h).2
    exact .of_unchanged rfl rfl rfl rfl rfl rfl
  | hdrDec =>
    obtain ⟨-, ⟨-, rfl⟩ | ⟨-, rfl⟩⟩ := exec_next h
    · exact .of_unchanged rfl rfl rfl rfl rfl rfl
    · exact ⟨rfl, nofun, nofun, .inl ⟨rfl, rfl⟩⟩
  | pktNew =>
    obtain ⟨-, rfl⟩ := exec_pktNew_next h
    exact ⟨rfl, fun _ => .inr ⟨rfl, .inl rfl⟩, nofun, .inr (.inl rfl)⟩
  | pktEnc =>
    obtain ⟨-, ⟨-, p, -, rfl⟩ | ⟨-, rfl⟩⟩ := exec_next h
    · exact .of_unchanged rfl rfl rfl rfl rfl rfl
    · exact .of_unchanged rfl rfl rfl rfl rfl rfl
  | pktDec =>
    obtain ⟨-, rfl⟩ | ⟨hd, cand, -, ⟨-, rfl⟩ | ⟨-, -, rfl⟩⟩ := exec_pktDec_next h
    · exact ⟨rfl, nofun, nofun, .inr (.inr (.inl rfl))⟩
    · exact ⟨rfl, nofun, nofun, .inr (.inr (.inl rfl))⟩
    · exact ⟨rfl, fun _ => .inr ⟨rfl, .inr rfl⟩, nofun, .inr (.inr (.inl rfl))⟩
  | csum =>
    obtain rfl : t = _ := (exec_next h).2
    exact ⟨rfl, .inl, fun hk => ⟨rfl, .inl hk⟩, .inr (.inr (.inr (.inl rfl)))⟩
  | pktVfy =>
    obtain ⟨-, ⟨-, p, -, rfl⟩ | ⟨-, rfl⟩⟩ := exec_next h
    · exact ⟨rfl, .inl, fun _ => ⟨rfl, .inr rfl⟩, .inr (.inr (.inr (.inr rfl)))⟩
    · exact .of_unchanged rfl rfl rfl rfl rfl rfl

/-- What a command line can do: its command's effect, or the one error of a reserved word. -/
theorem command_cases {cw : Byte} {input : ByteSeq} (h : perform (.command cw input) s = .next t) :
    (∃ i, cw = encode i ∧ (i.takesInput = true ∨ input = []) ∧ CommandEffect i s t) ∨
    t = s.raiseError .illegalCommand := by
  obtain ⟨-, ⟨i, hd, hw, ht⟩ | ⟨e, -, -, rfl⟩⟩ := command_next h
  · obtain ⟨cfg, pv, vok, sums⟩ := exec_effect ht
    exact .inl ⟨i, (decode_ok_iff cw i).1 hd, hw, cfg, pv, vok, sums⟩
  · exact .inr rfl

/-- What the `START` of a command with an input sequence can do (R91). -/
structure OpeningEffect (i : Instr) (s t : State) : Prop where
  ph : t.ph = .run
  cfg : t.cfg = s.cfg
  emitted : t.emitted = s.emitted
  h : t.h = s.h
  pv : t.pv = true → s.pv = true
  vok : t.vok = true → s.vok = true
  sums : (t.acc = s.acc ∧ t.cnt = s.cnt) ∨ i = .pktNew ∨ i = .pktDec ∨ i = .csum

/-- What a `START` can do: a reserved word's error, a command without an input sequence, or the opening of one. -/
theorem start_cases {cw : Byte} (h : perform (.start cw) s = .next t) :
    ((∃ e, decode cw = .error e) ∧ t = s.raiseError .illegalCommand) ∨
    ∃ i, cw = encode i ∧
      ((i.takesInput = false ∧ t.CompletedFrom s ∧ CommandEffect i s t) ∨
        (i.takesInput = true ∧ OpeningEffect i s t)) := by
  obtain ⟨-, ⟨e, hd, rfl⟩ | ⟨i, hd, u, rfl, hu⟩⟩ := start_next h
  · exact .inl ⟨⟨e, hd⟩, rfl⟩
  · refine .inr ⟨i, (decode_ok_iff cw i).1 hd, ?_⟩
    cases hn : i.takesInput with
    | false =>
      rw [perform_start_immediate hd hn] at h
      obtain ⟨cfg, pv, vok, sums⟩ := exec_effect h
      exact .inl ⟨rfl, (exec_completedFrom h :), cfg, pv, vok, sums⟩
    | true =>
      refine .inr ⟨rfl, ?_⟩
      cases i with
      | hdrEnc | pktEnc | pktVfy => simp [Instr.takesInput] at hn
      | hdrDec =>
        subst hu
        exact ⟨rfl, rfl, rfl, rfl, id, id, .inl ⟨rfl, rfl⟩⟩
      | pktNew =>
        subst hu
        exact ⟨rfl, rfl, rfl, rfl, nofun, nofun, .inr (.inl rfl)⟩
      | pktDec =>
        subst hu
        exact ⟨rfl, rfl, rfl, rfl, nofun, nofun, .inr (.inr (.inl rfl))⟩
      | csum =>
        subst hu
        exact ⟨rfl, rfl, rfl, rfl, id, id, .inr (.inr (.inr rfl))⟩

/-- What a `BYTE` can do (R93, R95, R97, R99). -/
structure ByteEffect (s t : State) : Prop where
  ph : s.ph = .run ∧ t.ph = .run
  op : t.op = s.op
  cfg : t.cfg = s.cfg
  emitted : t.emitted = s.emitted
  pv : t.pv = true → s.pv = true
  vok : t.vok = true → s.vok = true ∧ (t.h = s.h ∨ s.op = 5#3)
  sums : (t.acc = s.acc ∧ t.cnt = s.cnt) ∨ s.op ≠ 2#3

theorem byte_effect {b : Byte} (h : perform (.byte b) s = .next t) : ByteEffect s t := by
  obtain ⟨hr, ⟨ho, stages⟩ | ⟨ho, -, rfl⟩ | ⟨ho, stages⟩ | ⟨ho, rfl⟩⟩ := byte_next h
  · obtain ⟨-, rfl⟩ | ⟨-, rfl⟩ | ⟨-, hd, -, rfl⟩ := stages
    · exact ⟨⟨hr, hr⟩, rfl, rfl, rfl, id, fun hk => ⟨hk, .inl rfl⟩, .inl ⟨rfl, rfl⟩⟩
    · exact ⟨⟨hr, hr⟩, rfl, rfl, rfl, id, fun hk => ⟨hk, .inl rfl⟩, .inl ⟨rfl, rfl⟩⟩
    · exact ⟨⟨hr, hr⟩, rfl, rfl, rfl, nofun, nofun, .inl ⟨rfl, rfl⟩⟩
  · exact ⟨⟨hr, hr⟩, rfl, rfl, rfl, id, fun hk => ⟨hk, .inl rfl⟩, .inr (by simp [ho])⟩
  · obtain ⟨-, rfl⟩ | ⟨-, rfl⟩ | ⟨-, hd, -, rfl⟩ := stages
    all_goals exact ⟨⟨hr, hr⟩, rfl, rfl, rfl, id, fun hk => ⟨hk, .inr ho⟩, .inr (by simp [ho])⟩
  · exact ⟨⟨hr, hr⟩, rfl, rfl, rfl, id, fun hk => ⟨hk, .inl rfl⟩, .inr (by simp [ho])⟩

/-- What an `END` can do (R94, R96, R98, R99). -/
structure EndEffect (s t : State) : Prop where
  ph : s.ph = .run ∧ t.ph = .idle
  cfg : t.cfg = s.cfg
  emitted : t.emitted = s.emitted ++ [.done]
  pv : t.pv = true → s.pv = true ∨ (t.err = .ok ∧ (s.op = 3#3 ∨ s.op = 5#3))
  vok : t.vok = s.vok
  h : t.h = s.h ∨ s.op = 3#3
  sums : t.acc = s.acc ∧ t.cnt = s.cnt

theorem endInput_effect (h : perform .endInput s = .next t) : EndEffect s t := by
  obtain ⟨hr, ⟨-, rfl⟩ | ⟨ho, rfl⟩ | ⟨ho, result⟩ | ⟨-, rfl⟩⟩ := endInput_next h
  · exact ⟨⟨hr, rfl⟩, rfl, rfl, .inl, rfl, .inl rfl, rfl, rfl⟩
  · exact ⟨⟨hr, rfl⟩, rfl, rfl, fun _ => .inr ⟨rfl, .inl ho⟩, rfl, .inr ho, rfl, rfl⟩
  · obtain ⟨-, rfl⟩ | ⟨-, -, rfl⟩ | ⟨-, -, -, rfl⟩ := result
    · exact ⟨⟨hr, rfl⟩, rfl, rfl, .inl, rfl, .inl rfl, rfl, rfl⟩
    · exact ⟨⟨hr, rfl⟩, rfl, rfl, .inl, rfl, .inl rfl, rfl, rfl⟩
    · exact ⟨⟨hr, rfl⟩, rfl, rfl, fun _ => .inr ⟨rfl, .inr ho⟩, rfl, .inl rfl, rfl, rfl⟩
  · exact ⟨⟨hr, rfl⟩, rfl, rfl, .inl, rfl, .inl rfl, rfl, rfl⟩

/-- A read answers the host and changes no state of the block (R22, R36, R105). -/
def ReadEffect (s t : State) : Prop := ∃ e n, t = { s with emitted := s.emitted ++ [e], draws := n }

theorem rd_effect {r : Nat} (h : perform (.rd r) s = .next t) : ReadEffect s t := by
  obtain rfl | ⟨-, -, rfl⟩ := rd_next h
  · exact ⟨_, s.draws, rfl⟩
  · exact ⟨_, _, rfl⟩

theorem rdp_effect {i : Nat} (h : perform (.rdp i) s = .next t) : ReadEffect s t := by
  obtain ⟨b, -, rfl⟩ | rfl := rdp_next h
  · exact ⟨_, s.draws, rfl⟩
  · exact ⟨_, _, rfl⟩

/-- The actions at the register port, the payload port and the reset input: what is neither a command nor an event of
its input sequence. -/
def portAction : Action → Bool
  | .rd _ | .rdp _ | .wr _ _ | .reset => true
  | .command _ _ | .start _ | .byte _ | .endInput => false

/-- What such an action can do to the flags, the counters and the record (R22, R130). -/
structure PortEffect (a : Action) (s t : State) : Prop where
  cfg : t.cfg = s.cfg
  pv : t.pv = true → s.pv = true
  vok : t.vok = true → s.vok = true ∧ t.h = s.h
  sums : (t.acc = s.acc ∧ t.cnt = s.cnt) ∨ a = .reset
  emitted : ∃ new, t.emitted = s.emitted ++ new ∧ ((∃ r v, a = .wr r v) ∨ a = .reset → new = [])

theorem ReadEffect.port {a : Action} (h : ReadEffect s t) (ha : ¬ ((∃ r v, a = .wr r v) ∨ a = .reset)) :
    PortEffect a s t := by
  obtain ⟨e, n, rfl⟩ := h
  exact ⟨rfl, id, fun hk => ⟨hk, rfl⟩, .inl ⟨rfl, rfl⟩, [e], rfl, fun h => absurd h ha⟩

theorem port_effect {a : Action} (hp : portAction a = true) (h : perform a s = .next t) : PortEffect a s t := by
  cases a with
  | command | start | byte | endInput => cases hp
  | rd r => exact (rd_effect h).port (by simp)
  | rdp i => exact (rdp_effect h).port (by simp)
  | wr r v =>
    obtain ⟨-, ⟨-, rfl⟩ | ⟨-, _, rfl⟩⟩ := wr_next h
    · exact ⟨rfl, id, fun hk => ⟨hk, rfl⟩, .inl ⟨rfl, rfl⟩, [], (List.append_nil _).symm, fun _ => rfl⟩
    · exact ⟨rfl, nofun, nofun, .inl ⟨rfl, rfl⟩, [], (List.append_nil _).symm, fun _ => rfl⟩
  | reset =>
    obtain rfl : _ = t := Host.Outcome.next.inj h
    exact ⟨rfl, nofun, nofun, .inr rfl, [], (List.append_nil _).symm, fun _ => rfl⟩

/-- No action changes what is pending: it does the same with every list of pending actions. -/
theorem perform_actions {a : Action} (h : perform a s = .next t) : t.actions = s.actions := by
  have same := perform_withActions s s.actions a
  rw [h, show s.withActions s.actions = s from rfl, h, pending, Host.Outcome.next.injEq] at same
  exact (congrArg State.actions same).trans rfl

/-! ## `VOK` and the header -/

/-- In a state with the invariant, an action that ends with `VOK = 1` has left `H` as it was (R18). -/
theorem perform_header_of_verified {a : Action} (inv : s.Inv) (ht : perform a s = .next t) (hk : t.vok = true) :
    t.h = s.h := by
  cases a with
  | command cw input =>
    obtain ⟨i, -, -, effect⟩ | rfl := command_cases ht
    · exact (effect.vok hk).1
    · rfl
  | start cw =>
    obtain ⟨-, rfl⟩ | ⟨i, -, ⟨-, -, effect⟩ | ⟨-, effect⟩⟩ := start_cases ht
    · rfl
    · exact (effect.vok hk).1
    · exact effect.h
  | byte b =>
    have effect := byte_effect ht
    obtain ⟨was, same | ho⟩ := effect.vok hk
    · exact same
    · simp [(inv.pktDecProgress effect.ph.1 ho).vok] at was
  | endInput =>
    have effect := endInput_effect ht
    obtain same | ho := effect.h
    · exact same
    · simp [effect.vok, (inv.pktNewProgress effect.ph.1 ho).vok] at hk
  | rd | wr | rdp | reset => exact ((port_effect rfl ht).vok hk).2

/-- Only PKT.VFY takes `VOK` from 0 to 1 (R18). -/
theorem perform_verifies {a : Action} (ht : perform a s = .next t) (hs : s.vok = false) (hk : t.vok = true) :
    a = .command 0x07#8 [] ∨ a = .start 0x07#8 := by
  have fresh : ¬ s.vok = true := by simp [hs]
  cases a with
  | command cw input =>
    obtain ⟨i, rfl, hw, effect⟩ | rfl := command_cases ht
    · obtain rfl := (effect.vok hk).2.resolve_left fresh
      obtain rfl : input = [] := hw.resolve_left (by decide)
      exact .inl rfl
    · exact absurd hk fresh
  | start cw =>
    obtain ⟨-, rfl⟩ | ⟨i, rfl, ⟨-, -, effect⟩ | ⟨-, effect⟩⟩ := start_cases ht
    · exact absurd hk fresh
    · obtain rfl := (effect.vok hk).2.resolve_left fresh
      exact .inr rfl
    · exact absurd (effect.vok hk) fresh
  | byte b => exact absurd ((byte_effect ht).vok hk).1 fresh
  | endInput => exact absurd ((endInput_effect ht).vok ▸ hk) fresh
  | rd | wr | rdp | reset => exact absurd ((port_effect rfl ht).vok hk).1 fresh

/-! ## The record and the parameters -/

theorem perform_cfg {a : Action} (ht : perform a s = .next t) : t.cfg = s.cfg := by
  cases a with
  | command cw input =>
    obtain ⟨i, -, -, effect⟩ | rfl := command_cases ht
    · exact effect.cfg
    · rfl
  | start cw =>
    obtain ⟨-, rfl⟩ | ⟨i, -, ⟨-, -, effect⟩ | ⟨-, effect⟩⟩ := start_cases ht
    · rfl
    · exact effect.cfg
    · exact effect.cfg
  | byte b => exact (byte_effect ht).cfg
  | endInput => exact (endInput_effect ht).cfg
  | rd | wr | rdp | reset => exact (port_effect rfl ht).cfg

/-- A block that completes has appended to what was sent. -/
theorem State.CompletedFrom.appends (h : t.CompletedFrom s) : ∃ new, t.emitted = s.emitted ++ new := by
  obtain ⟨-, outs, sent, -, -⟩ := h
  exact ⟨outs ++ [.done], by rw [sent, List.append_assoc]⟩

theorem perform_emitted {a : Action} (ht : perform a s = .next t) : ∃ new, t.emitted = s.emitted ++ new ∧
    ((∃ b, a = .byte b) ∨ (∃ r v, a = .wr r v) ∨ a = .reset → new = []) := by
  cases a with
  | command cw input =>
    obtain ⟨new, sent⟩ := (command_completedFrom ht).appends
    exact ⟨new, sent, by simp⟩
  | start cw =>
    suffices appended : ∃ new, t.emitted = s.emitted ++ new by
      obtain ⟨new, sent⟩ := appended
      exact ⟨new, sent, by simp⟩
    obtain ⟨-, rfl⟩ | ⟨i, -, ⟨-, done, -⟩ | ⟨-, effect⟩⟩ := start_cases ht
    · exact ⟨_, rfl⟩
    · exact done.appends
    · exact ⟨[], by rw [effect.emitted, List.append_nil]⟩
  | byte b => exact ⟨[], by rw [(byte_effect ht).emitted, List.append_nil], fun _ => rfl⟩
  | endInput => exact ⟨_, (endInput_effect ht).emitted, by simp⟩
  | rd | wr | rdp | reset =>
    obtain ⟨new, sent, silent⟩ := (port_effect rfl ht).emitted
    exact ⟨new, sent, fun h => silent (h.resolve_left (by simp))⟩

/-! ## Words and commands -/

theorem takesInput_iff (i : Instr) : i.takesInput = true ↔
    encode i = 0x02#8 ∨ encode i = 0x03#8 ∨ encode i = 0x05#8 ∨ encode i = 0x06#8 := by
  cases i <;> decide

theorem decode_inputWord {cw : Byte} (h : cw = 0x02#8 ∨ cw = 0x03#8 ∨ cw = 0x05#8 ∨ cw = 0x06#8) :
    ∃ i, decode cw = .ok i := by
  obtain rfl | rfl | rfl | rfl := h <;> exact ⟨_, rfl⟩

end Sys2Proof.Machine

open Sys2Proof Sys2Proof.Machine

/-- Settles O44: of the commands only PKT.NEW and PKT.DEC set `PV`, of the events only `END` of these two. -/
theorem packetBecomesValidOnlyByNewOrDec : Obligations.PacketBecomesValidOnlyByNewOrDec := by
  intro a s t ht hs hv
  have fresh : ¬ s.pv = true := by simp [hs]
  cases a with
  | command cw input =>
    obtain ⟨i, rfl, -, effect⟩ | rfl := command_cases ht
    · obtain ⟨ok, hi⟩ := (effect.pv hv).resolve_left fresh
      exact ⟨ok, .inl ⟨input, hi.imp (by rintro rfl; rfl) (by rintro rfl; rfl)⟩⟩
    · exact absurd hv fresh
  | start cw =>
    obtain ⟨-, rfl⟩ | ⟨i, rfl, ⟨hn, -, effect⟩ | ⟨-, effect⟩⟩ := start_cases ht
    · exact absurd hv fresh
    · obtain ⟨-, rfl | rfl⟩ := (effect.pv hv).resolve_left fresh <;> simp [Instr.takesInput] at hn
    · exact absurd (effect.pv hv) fresh
  | byte b => exact absurd ((byte_effect ht).pv hv) fresh
  | endInput =>
    have effect := endInput_effect ht
    obtain ⟨ok, ho⟩ := (effect.pv hv).resolve_left fresh
    exact ⟨ok, .inr ⟨rfl, effect.ph.1, ho⟩⟩
  | rd | wr | rdp | reset => exact absurd ((port_effect rfl ht).pv hv) fresh

/-- Settles O46: each kind of action that can change a counter is one of those named. -/
theorem accumulatorChangesOnlyByItsCommands : Obligations.AccumulatorChangesOnlyByItsCommands := by
  intro a s t ht changed
  have unchanged : ¬ (t.acc = s.acc ∧ t.cnt = s.cnt) := fun ⟨ha, hc⟩ => changed.elim (· ha) (· hc)
  cases a with
  | command cw input =>
    obtain ⟨i, rfl, -, effect⟩ | rfl := command_cases ht
    · refine .inr (.inr ⟨_, .inr ⟨input, rfl⟩, ?_⟩)
      obtain rfl | rfl | rfl | rfl := effect.sums.resolve_left unchanged <;> decide
    · exact absurd ⟨rfl, rfl⟩ unchanged
  | start cw =>
    obtain ⟨-, rfl⟩ | ⟨i, rfl, ⟨-, -, effect⟩ | ⟨-, effect⟩⟩ := start_cases ht
    · exact absurd ⟨rfl, rfl⟩ unchanged
    · refine .inr (.inr ⟨_, .inl rfl, ?_⟩)
      obtain rfl | rfl | rfl | rfl := effect.sums.resolve_left unchanged <;> decide
    · refine .inr (.inr ⟨_, .inl rfl, ?_⟩)
      obtain rfl | rfl | rfl := effect.sums.resolve_left unchanged <;> decide
  | byte b =>
    have effect := byte_effect ht
    exact .inr (.inl ⟨b, rfl, effect.ph.1, effect.sums.resolve_left unchanged⟩)
  | endInput => exact absurd (endInput_effect ht).sums unchanged
  | rd | wr | rdp | reset => exact .inl ((port_effect rfl ht).sums.resolve_left unchanged)

/-- Settles O47: R106's table, row by row. -/
theorem phaseMachine : Obligations.PhaseMachine := by
  intro a s t ht
  cases a with
  | command cw input => exact ⟨(command_next ht).1, (command_completedFrom ht).1⟩
  | start cw =>
    refine ⟨(start_next ht).1, ?_⟩
    obtain ⟨⟨e, hd⟩, rfl⟩ | ⟨i, rfl, ⟨hn, done, -⟩ | ⟨hn, effect⟩⟩ := start_cases ht
    · refine ⟨nofun, fun hcw => ?_⟩
      obtain ⟨i, hok⟩ := decode_inputWord hcw
      cases hd.symm.trans hok
    · simp [← takesInput_iff, hn, done.1]
    · simp [← takesInput_iff, hn, effect.ph]
  | byte b =>
    have effect := byte_effect ht
    exact ⟨effect.ph.1, effect.ph.2, effect.op⟩
  | endInput => exact (endInput_effect ht).ph
  | rd r =>
    obtain ⟨_, _, rfl⟩ := rd_effect ht
    rfl
  | wr r v => obtain ⟨hi, ⟨-, rfl⟩ | ⟨-, _, rfl⟩⟩ := wr_next ht <;> exact ⟨hi, hi⟩
  | rdp i =>
    obtain ⟨_, _, rfl⟩ := rdp_effect ht
    rfl
  | reset =>
    obtain rfl : _ = t := Host.Outcome.next.inj ht
    rfl

/-- Settles O45: only PKT.VFY verifies; a verified packet has `PV = 1` by the invariant and the header it had. -/
theorem verifiedOnlyByPktVfy : Obligations.VerifiedOnlyByPktVfy := by
  refine ⟨fun a s t => perform_verifies, fun a s t inv ht lost => ?_⟩
  by_contra hk
  rw [Bool.not_eq_false] at hk
  obtain changed | hv := lost
  · exact changed (perform_header_of_verified inv ht hk)
  · simp [(perform_keeps_inv inv ht).vok_false hv] at hk

/-- Settles O48: what is sent is appended, the parameters and the pending actions stay. -/
theorem sentEventsAreNeverLost : Obligations.SentEventsAreNeverLost :=
  fun _ _ _ ht => ⟨perform_emitted ht, perform_cfg ht, perform_actions ht⟩
end

section
/-! PROOFS. The payload buffer, byte by byte (10_state.md R14, R20, 20_memory.md R37): what of `PAY` each command and
each `BYTE` leaves, stores or drops. -/

namespace Sys2Proof.Machine

variable {s t : State}

/-- A payload read byte by byte. -/
theorem Memory.read_zip (bs : ByteSeq) (j : Nat) : Memory.read ((List.range bs.length).zip bs) j = bs[j]? := by
  obtain ⟨indices, bytes⟩ := Memory.zip_filled bs
  obtain inside | outside := Nat.lt_or_ge j bs.length
  · rw [Memory.read_filled indices inside, bytes]
  · have absent : ∀ c ∈ (List.range bs.length).zip bs, c.1 ≠ j := fun c hc => by
      have : c.1 < bs.length := List.mem_range.1 (List.of_mem_zip hc).1
      omega
    rw [← List.append_nil ((List.range bs.length).zip bs), Memory.read_append_left absent, Memory.read_nil,
      List.getElem?_eq_none outside]

/-- R37: a write stores at its index only, below `PCAP` only. -/
theorem State.read_payWrite (s : State) (i j : Nat) (b : Byte) : (s.payWrite i b).pay.read j =
    if j = i ∧ j < s.cfg.pcap.toNat then some b else s.pay.read j := by
  rw [State.payWrite_pay]
  by_cases room : i < s.cfg.pcap.toNat
  · rw [if_pos room, Memory.read_write]
    exact if_congr ⟨fun h => ⟨h, h ▸ room⟩, And.left⟩ rfl rfl
  · rw [if_neg room, if_neg fun ⟨h, hj⟩ => room (h ▸ hj)]

/-- The commands that store nothing and drop nothing. -/
theorem exec_keeps_pay {i : Instr} (hi : i = .hdrEnc ∨ i = .pktEnc ∨ i = .csum ∨ i = .pktVfy)
    (h : exec i s = .next t) : t.pay = s.pay := by
  obtain rfl | rfl | rfl | rfl := hi
  · obtain rfl : t = _ := (exec_next h).2
    rfl
  · obtain ⟨-, ⟨-, p, -, rfl⟩ | ⟨-, rfl⟩⟩ := exec_next h <;> rfl
  · obtain rfl : t = _ := (exec_next h).2
    rfl
  · obtain ⟨-, ⟨-, p, -, rfl⟩ | ⟨-, rfl⟩⟩ := exec_next h <;> rfl

theorem exec_hdrDec_pay (h : exec .hdrDec s = .next t) : t.pay = if s.input.length < 21 then s.pay else [] := by
  obtain ⟨-, ⟨short, rfl⟩ | ⟨long, rfl⟩⟩ := exec_next h
  · exact (if_pos short).symm
  · exact (if_neg long.not_gt).symm

/-- PKT.DEC leaves the candidate payload if it has put it into the slot, and no byte otherwise. -/
theorem exec_pktDec_pay (h : exec .pktDec s = .next t) :
    t.pay = if t.pv then (List.range (s.input.drop 21).length).zip (s.input.drop 21) else [] := by
  obtain ⟨-, rfl⟩ | ⟨hd, cand, hin, ⟨-, rfl⟩ | ⟨-, -, rfl⟩⟩ := exec_pktDec_next h
  · rfl
  · rfl
  · rw [hin, List.drop_left' (hdrPack_length hd)]
    rfl

/-- R93, R95, R97, R99: the three things a `BYTE` can do to `PAY`. -/
theorem byte_pay {b : Byte} (h : perform (.byte b) s = .next t) :
    t.pay = if s.op = 3#3 ∨ (s.op = 5#3 ∧ 21 ≤ s.idx) then (s.payWrite s.cnt.toNat b).pay
      else if s.op = 2#3 ∧ s.idx = 20 then [] else s.pay := by
  obtain ⟨-, ⟨ho, stages⟩ | ⟨ho, -, rfl⟩ | ⟨ho, stages⟩ | ⟨ho, rfl⟩⟩ := byte_next h
  · obtain ⟨hx, rfl⟩ | ⟨hx, rfl⟩ | ⟨hx, hd, -, rfl⟩ := stages
    · simp [ho, hx.ne]
    · have past : t.idx ≠ 20 := by omega
      simp [ho, past]
    · simp [ho, hx]
  · simp [ho]
  · obtain ⟨hx, rfl⟩ | ⟨hx, rfl⟩ | ⟨hx, hd, -, rfl⟩ := stages
    · simp [ho, show ¬ 21 ≤ s.idx by omega]
    · simp [ho, hx]
    · simp [ho, hx]
  · simp [ho]

end Sys2Proof.Machine

open Sys2Proof Sys2Proof.Machine

/-- Settles O26: the buffer each action leaves, read at one index. -/
theorem payloadBufferFrame : Obligations.PayloadBufferFrame := by
  refine ⟨fun i s t hi h j => by rw [exec_keeps_pay hi h], fun s t h j => ?_, fun s t h j => ?_, fun s t h j => ?_,
    fun b s t h j => ?_⟩
  · rw [exec_hdrDec_pay h, apply_ite (Memory.read · j), Memory.read_nil]
  · obtain ⟨-, rfl⟩ := exec_pktNew_next h
    exact Memory.read_zip s.input j
  · rw [exec_pktDec_pay h, apply_ite (Memory.read · j), Memory.read_nil, Memory.read_zip]
  · rw [byte_pay h, apply_ite (Memory.read · j), apply_ite (Memory.read · j), Memory.read_nil, State.read_payWrite]
end

section
/-! PROOFS. Clusters (20_memory.md R41, 60_exceptions.md R122): a step of one member of a cluster replaces that member
alone, and no step changes a parameter. -/

namespace Sys2Proof.Machine

theorem step_cfg {s t : State} (h : step s = .next t) : t.cfg = s.cfg := by
  rw [step] at h
  split at h
  · exact Host.Outcome.next.inj h ▸ rfl
  · exact (perform_cfg h).trans rfl

/-- Replacing a member by one with the same parameters leaves the parameters of the whole cluster. -/
theorem Cluster.setMember_cfg {c : Cluster} {k : Nat} {s t : State} (hs : c.members[k]? = some s)
    (same : t.cfg = s.cfg) : (c.setMember k t).members.map State.cfg = c.members.map State.cfg := by
  obtain ⟨inside, rfl⟩ := List.getElem?_eq_some_iff.1 hs
  rw [Cluster.setMember_members, List.map_set, same, ← List.getElem_map State.cfg, List.set_getElem_self]
  simpa using inside

/-- Member `k` of a group after reset has the number `k`. -/
theorem Cluster.reset_units (g : GroupConfig) :
    ((Cluster.reset g).members.map fun s => s.cfg.unit) = List.range g.nInst := by
  refine List.ext_getElem (by simp) fun k hk _ => ?_
  simp [Cluster.reset]

end Sys2Proof.Machine

open Sys2Proof Sys2Proof.Machine

/-- Settles O49: the cluster step is the member's own step, put back in its place. -/
theorem instancesShareNothing : Obligations.InstancesShareNothing := by
  intro c d k j h
  obtain ⟨s, t, hs, ht, rfl⟩ := Cluster.stepAt_next h
  have inside : k < c.members.length := (List.getElem?_eq_some_iff.1 hs).1
  exact ⟨by simp, fun hj => by simp [List.getElem?_set_ne hj.symm], s, t, hs, ht, by simp [inside]⟩

/-- Settles O54: a group's capacities are not empty; its members are numbered in order; a step keeps its member's
parameters and replaces no other. -/
theorem groupsKeepTheirParameters : Obligations.GroupsKeepTheirParameters := by
  refine ⟨fun g => ⟨List.length_pos_iff.2 g.atLeastOne, Cluster.reset_length g, fun k c hc => ?_, ?_⟩,
    fun c d k h => ?_⟩
  · rw [Cluster.reset_member, hc, Option.map_some]
  · rw [Cluster.reset_units]
    exact List.nodup_range
  · obtain ⟨s, t, hs, ht, rfl⟩ := Cluster.stepAt_next h
    exact Cluster.setMember_cfg hs (step_cfg ht)
end
